-- ==== Sys2Proof/Word.lean ====
section
/-! DEFINITION. The widths of the machine's data (spec/00_scope.md R4, spec/10_state.md, spec/30_encoding.md R63).
Everything here is unsigned (R7). -/

namespace Sys2Proof

/-- A memory byte, a general register, a timer, an immediate `nn`. -/
abbrev Byte := BitVec 8

/-- An instruction word, the program counter, a stack entry. -/
abbrev Word := BitVec 16

/-- The index register and the `nnn` field: 12 bits. -/
abbrev Addr := BitVec 12

/-- The `n` field: a sprite's row count, 0..15. -/
abbrev Nibble := BitVec 4

/-- An `x` or `y` field: it names one of V0..VF directly, and all 16 values are legal (R63, R73). -/
abbrev Reg := BitVec 4

end Sys2Proof
end

