-- ==== Sys2Proof/Syntax.lean ====
section
/-! DEFINITION. The instruction set: one constructor per row of spec/opcode_table.json, in the table's order
(spec/30_encoding.md R72: exactly 34). The comment on each constructor gives the pattern, which is the normative name;
the mnemonic is a spelling of it (R85). -/

namespace Sys2Proof

/-- An instruction with its fields. The `y` of `shr` and `shl` is encoded but not read (R73). -/
inductive Instr where
  | cls                             -- 00E0  CLS
  | ret                             -- 00EE  RET
  | jp (nnn : Addr)                 -- 1nnn  JP nnn
  | call (nnn : Addr)               -- 2nnn  CALL nnn
  | seImm (x : Reg) (nn : Byte)     -- 3xnn  SE Vx, nn
  | sneImm (x : Reg) (nn : Byte)    -- 4xnn  SNE Vx, nn
  | seReg (x y : Reg)               -- 5xy0  SE Vx, Vy
  | ldImm (x : Reg) (nn : Byte)     -- 6xnn  LD Vx, nn
  | addImm (x : Reg) (nn : Byte)    -- 7xnn  ADD Vx, nn
  | ldReg (x y : Reg)               -- 8xy0  LD Vx, Vy
  | orReg (x y : Reg)               -- 8xy1  OR Vx, Vy
  | andReg (x y : Reg)              -- 8xy2  AND Vx, Vy
  | xorReg (x y : Reg)              -- 8xy3  XOR Vx, Vy
  | addReg (x y : Reg)              -- 8xy4  ADD Vx, Vy
  | subReg (x y : Reg)              -- 8xy5  SUB Vx, Vy
  | shr (x y : Reg)                 -- 8xy6  SHR Vx, Vy
  | subnReg (x y : Reg)             -- 8xy7  SUBN Vx, Vy
  | shl (x y : Reg)                 -- 8xyE  SHL Vx, Vy
  | sneReg (x y : Reg)              -- 9xy0  SNE Vx, Vy
  | ldI (nnn : Addr)                -- Annn  LD I, nnn
  | jpV0 (nnn : Addr)               -- Bnnn  JP V0, nnn
  | rnd (x : Reg) (nn : Byte)       -- Cxnn  RND Vx, nn
  | drw (x y : Reg) (n : Nibble)    -- Dxyn  DRW Vx, Vy, n
  | skp (x : Reg)                   -- Ex9E  SKP Vx
  | sknp (x : Reg)                  -- ExA1  SKNP Vx
  | ldVxDt (x : Reg)                -- Fx07  LD Vx, DT
  | ldVxK (x : Reg)                 -- Fx0A  LD Vx, K
  | ldDtVx (x : Reg)                -- Fx15  LD DT, Vx
  | ldStVx (x : Reg)                -- Fx18  LD ST, Vx
  | addI (x : Reg)                  -- Fx1E  ADD I, Vx
  | ldF (x : Reg)                   -- Fx29  LD F, Vx
  | ldB (x : Reg)                   -- Fx33  LD B, Vx
  | ldMemVx (x : Reg)               -- Fx55  LD [I], Vx
  | ldVxMem (x : Reg)               -- Fx65  LD Vx, [I]
  deriving DecidableEq, Repr

end Sys2Proof
end

