-- ==== Sys2Proof/WellFormed.lean ====
section
/-! DEFINITION. Well-formed operands (log entry 13). An operand of `Instr` is a bit vector of its field's width (spec/30_encoding.md
R63, R64), and every value of every field is legal (R73), so an ill-formed instruction cannot be written in `Instr`.
What can be ill-formed is the plain number an assembler or a host would put into a field: the checks below turn a number
into a field and refuse one that does not fit its width. `Instr.wellFormed` says the same of an instruction's fields. -/

namespace Sys2Proof

/-- A number as an `x` or `y` field: 0..15, a register V0..VF. -/
def regOf? (k : Nat) : Option Reg := if k < 16 then some (BitVec.ofNat 4 k) else none

/-- A number as an `n` field: 0..15, a row count. -/
def nibbleOf? (k : Nat) : Option Nibble := if k < 16 then some (BitVec.ofNat 4 k) else none

/-- A number as an `nn` field: 0..255. -/
def byteOf? (k : Nat) : Option Byte := if k < 256 then some (BitVec.ofNat 8 k) else none

/-- A number as an `nnn` field: 0x000..0xFFF. -/
def addrOf? (k : Nat) : Option Addr := if k < 4096 then some (BitVec.ofNat 12 k) else none

/-- The fields of an instruction are in their ranges. It holds of every `Instr`, because the types of the fields are the
ranges: an instruction is well-formed by construction (R73: all values of a field are legal). -/
def Instr.wellFormed : Instr → Bool
  | .cls | .ret => true
  | .jp nnn | .call nnn | .ldI nnn | .jpV0 nnn => decide (nnn.toNat < 4096)
  | .seImm x nn | .sneImm x nn | .ldImm x nn | .addImm x nn | .rnd x nn =>
    decide (x.toNat < 16) && decide (nn.toNat < 256)
  | .seReg x y | .ldReg x y | .orReg x y | .andReg x y | .xorReg x y | .addReg x y | .subReg x y | .shr x y
  | .subnReg x y | .shl x y | .sneReg x y => decide (x.toNat < 16) && decide (y.toNat < 16)
  | .drw x y n => decide (x.toNat < 16) && decide (y.toNat < 16) && decide (n.toNat < 16)
  | .skp x | .sknp x | .ldVxDt x | .ldVxK x | .ldDtVx x | .ldStVx x | .addI x | .ldF x | .ldB x | .ldMemVx x
  | .ldVxMem x => decide (x.toNat < 16)

end Sys2Proof
end

