-- ==== Sys2Proof/Decode.lean ====
section
/-! DEFINITION. The decoder (spec/30_encoding.md R61 to R74), total on any word and on any bytes, and the encoder written
from the same formats (R62) and the match column of spec/opcode_table.json. Decoding is strict: every fixed digit of a
pattern must match (R67). -/

namespace Sys2Proof

/-- Why bytes are not an instruction. `unknownOpcode` is R66's UNKNOWN, which a step reports and skips (R82);
`truncated` is a byte sequence too short to hold a word, which no fetch gives. -/
inductive DecodeError where
  | unknownOpcode (op : Word)
  | truncated
  deriving DecidableEq, Repr

/-- The word of two consecutive bytes, big-endian: the byte at the lower address is the high byte
(spec/20_memory.md R49). -/
def wordOfBytes (hi lo : Byte) : Word := hi ++ lo

/-- op[15:12], which selects the family (R65). -/
def fieldTop (op : Word) : Nibble := op.extractLsb' 12 4

/-- x = op[11:8] (R63). -/
def fieldX (op : Word) : Reg := op.extractLsb' 8 4

/-- y = op[7:4] (R63). -/
def fieldY (op : Word) : Reg := op.extractLsb' 4 4

/-- n = op[3:0] (R63). -/
def fieldN (op : Word) : Nibble := op.extractLsb' 0 4

/-- nn = op[7:0] (R63). -/
def fieldNN (op : Word) : Byte := op.extractLsb' 0 8

/-- nnn = op[11:0] (R63). -/
def fieldNNN (op : Word) : Addr := op.extractLsb' 0 12

/-- Family 0: only 0x00E0 and 0x00EE are instructions (R68). -/
def decodeSystem (op : Word) : Except DecodeError Instr :=
  if op = 0x00E0#16 then .ok .cls
  else if op = 0x00EE#16 then .ok .ret
  else .error (.unknownOpcode op)

/-- Families 5 and 9: the low nibble must be 0 (R67). -/
def decodeRegSkip (op : Word) (i : Instr) : Except DecodeError Instr :=
  if fieldN op = 0x0#4 then .ok i else .error (.unknownOpcode op)

/-- Family 8: the low nibble selects one of nine operations (R65, R66). -/
def decodeAlu (op : Word) : Except DecodeError Instr :=
  let x := fieldX op
  let y := fieldY op
  let f := fieldN op
  if f = 0x0#4 then .ok (.ldReg x y)
  else if f = 0x1#4 then .ok (.orReg x y)
  else if f = 0x2#4 then .ok (.andReg x y)
  else if f = 0x3#4 then .ok (.xorReg x y)
  else if f = 0x4#4 then .ok (.addReg x y)
  else if f = 0x5#4 then .ok (.subReg x y)
  else if f = 0x6#4 then .ok (.shr x y)
  else if f = 0x7#4 then .ok (.subnReg x y)
  else if f = 0xE#4 then .ok (.shl x y)
  else .error (.unknownOpcode op)

/-- Family E: the low byte selects one of two key skips (R65, R66). -/
def decodeKeySkip (op : Word) : Except DecodeError Instr :=
  let x := fieldX op
  let f := fieldNN op
  if f = 0x9E#8 then .ok (.skp x)
  else if f = 0xA1#8 then .ok (.sknp x)
  else .error (.unknownOpcode op)

/-- Family F: the low byte selects one of nine operations (R65, R66). -/
def decodeMisc (op : Word) : Except DecodeError Instr :=
  let x := fieldX op
  let f := fieldNN op
  if f = 0x07#8 then .ok (.ldVxDt x)
  else if f = 0x0A#8 then .ok (.ldVxK x)
  else if f = 0x15#8 then .ok (.ldDtVx x)
  else if f = 0x18#8 then .ok (.ldStVx x)
  else if f = 0x1E#8 then .ok (.addI x)
  else if f = 0x29#8 then .ok (.ldF x)
  else if f = 0x33#8 then .ok (.ldB x)
  else if f = 0x55#8 then .ok (.ldMemVx x)
  else if f = 0x65#8 then .ok (.ldVxMem x)
  else .error (.unknownOpcode op)

/-- R66's `decode`: every 16-bit word is exactly one instruction or unknown, by the word alone (R74). -/
def decodeWord (op : Word) : Except DecodeError Instr :=
  let top := fieldTop op
  let x := fieldX op
  let nn := fieldNN op
  let nnn := fieldNNN op
  if top = 0x0#4 then decodeSystem op
  else if top = 0x1#4 then .ok (.jp nnn)
  else if top = 0x2#4 then .ok (.call nnn)
  else if top = 0x3#4 then .ok (.seImm x nn)
  else if top = 0x4#4 then .ok (.sneImm x nn)
  else if top = 0x5#4 then decodeRegSkip op (.seReg x (fieldY op))
  else if top = 0x6#4 then .ok (.ldImm x nn)
  else if top = 0x7#4 then .ok (.addImm x nn)
  else if top = 0x8#4 then decodeAlu op
  else if top = 0x9#4 then decodeRegSkip op (.sneReg x (fieldY op))
  else if top = 0xA#4 then .ok (.ldI nnn)
  else if top = 0xB#4 then .ok (.jpV0 nnn)
  else if top = 0xC#4 then .ok (.rnd x nn)
  else if top = 0xD#4 then .ok (.drw x (fieldY op) (fieldN op))
  else if top = 0xE#4 then decodeKeySkip op
  else decodeMisc op

/-- The decoder on bytes: an instruction and the bytes after it, or why there is none. There is one instruction length,
two bytes (R61). -/
def decode : List Byte → Except DecodeError (Instr × List Byte)
  | hi :: lo :: rest => (decodeWord (wordOfBytes hi lo)).map (·, rest)
  | _ => .error .truncated

/-- Format ADDR (R62). -/
def wordAddr (top : Nibble) (nnn : Addr) : Word := top ++ nnn

/-- Format XNN (R62). -/
def wordXNN (top : Nibble) (x : Reg) (nn : Byte) : Word := top ++ x ++ nn

/-- Formats XYF and XYN (R62). -/
def wordXYN (top : Nibble) (x y : Reg) (n : Nibble) : Word := top ++ x ++ y ++ n

/-- The instruction's word, by its format (R62) and its opcode digits (R66). -/
def encode : Instr → Word
  | .cls => 0x00E0#16
  | .ret => 0x00EE#16
  | .jp nnn => wordAddr 0x1 nnn
  | .call nnn => wordAddr 0x2 nnn
  | .seImm x nn => wordXNN 0x3 x nn
  | .sneImm x nn => wordXNN 0x4 x nn
  | .seReg x y => wordXYN 0x5 x y 0x0
  | .ldImm x nn => wordXNN 0x6 x nn
  | .addImm x nn => wordXNN 0x7 x nn
  | .ldReg x y => wordXYN 0x8 x y 0x0
  | .orReg x y => wordXYN 0x8 x y 0x1
  | .andReg x y => wordXYN 0x8 x y 0x2
  | .xorReg x y => wordXYN 0x8 x y 0x3
  | .addReg x y => wordXYN 0x8 x y 0x4
  | .subReg x y => wordXYN 0x8 x y 0x5
  | .shr x y => wordXYN 0x8 x y 0x6
  | .subnReg x y => wordXYN 0x8 x y 0x7
  | .shl x y => wordXYN 0x8 x y 0xE
  | .sneReg x y => wordXYN 0x9 x y 0x0
  | .ldI nnn => wordAddr 0xA nnn
  | .jpV0 nnn => wordAddr 0xB nnn
  | .rnd x nn => wordXNN 0xC x nn
  | .drw x y n => wordXYN 0xD x y n
  | .skp x => wordXNN 0xE x 0x9E
  | .sknp x => wordXNN 0xE x 0xA1
  | .ldVxDt x => wordXNN 0xF x 0x07
  | .ldVxK x => wordXNN 0xF x 0x0A
  | .ldDtVx x => wordXNN 0xF x 0x15
  | .ldStVx x => wordXNN 0xF x 0x18
  | .addI x => wordXNN 0xF x 0x1E
  | .ldF x => wordXNN 0xF x 0x29
  | .ldB x => wordXNN 0xF x 0x33
  | .ldMemVx x => wordXNN 0xF x 0x55
  | .ldVxMem x => wordXNN 0xF x 0x65

/-- An instruction's two bytes in memory order (spec/20_memory.md R49). -/
def encodeBytes (i : Instr) : List Byte := [(encode i).extractLsb' 8 8, (encode i).extractLsb' 0 8]

/-- The bytes of a table row's word, its bits above `nbits` zero, as the hardware stores them: high byte first (R49). -/
def tableWordBytes (nbits w : Nat) : List Byte :=
  let op : Word := BitVec.ofNat 16 (w % 2 ^ nbits)
  [op.extractLsb' 8 8, op.extractLsb' 0 8]

/-- The instruction the decoder reads from a word of spec/opcode_table.json, bit 0 the least significant bit of the
16-bit word. -/
def decodeTableWord (nbits w : Nat) : Option Instr :=
  match decode (tableWordBytes nbits w) with
  | .ok (i, _) => some i
  | .error _ => none

end Sys2Proof
end

