-- ==== Sys2Proof/Config.lean ====
section
/-! DEFINITION. What the spec fixes as constants (spec/00_scope.md R4), the three parameters it leaves open (R5), and the
free value of the random input (spec/10_state.md R37). -/

namespace Sys2Proof

/-- `MEM_SIZE`: 4096 bytes, addresses 0x000..0xFFF (R4). -/
def memSize : Nat := 4096

/-- `PROGRAM_BASE`: where `load` puts byte 0 of an image, and the reset value of PC (R4). -/
def programBase : Nat := 0x200

/-- `LOAD_MAX`: the longest image `load` accepts, 0xFFF - 0x200 + 1 bytes (R4). -/
def loadMax : Nat := 3584

/-- The cells of the 64 x 32 display, numbered 0..2047 row by row (R4). -/
def displayCells : Nat := 2048

/-- The font table: 16 glyphs of 5 bytes, glyph `g` at `g * 5` (R4). -/
abbrev Font := Vector Byte 80

/-- `DRAW_BOUND_CHECK`: which cells of a sprite are checked against 2047 (spec/43_display.md R121). -/
inductive DrawBoundCheck where
  | extent    -- every cell of the 8 x n rectangle (the default)
  | setBits   -- only the cells whose sprite bit is 1
  deriving DecidableEq, Repr

/-- `LOW_WRITE_POLICY`: what a program write below 0x200 does (spec/20_memory.md R48). -/
inductive LowWritePolicy where
  | write     -- an ordinary write (the default)
  | fault     -- OutOfRangeAccess(MEM_WRITE) before any write
  deriving DecidableEq, Repr

/-- The open parameters, fixed for one machine (R5). DESIGN CHOICE, log entry 3: they are plain data that the state
carries and no step changes, so a statement about every state holds for every value of them. Safe. -/
structure Config where
  font : Font
  drawBoundCheck : DrawBoundCheck
  lowWritePolicy : LowWritePolicy
  deriving DecidableEq, Repr

/-- FREE VALUE, log entry 2: the byte the k-th Cxnn finds when the host has put none at the random input. Any byte is possible
(spec/10_state.md R37), so the constant has no body and nothing can be proved of its values. Safe for a claim about one run;
unsafe for a claim that compares the random bytes of two runs. -/
opaque Config.freeByte : Nat → Byte

end Sys2Proof
end

