-- ==== Sys2Proof/Machine/Parameters.lean ====
section
/-! DEFINITION. The default values of the open parameters (spec/00_scope.md R5). -/

namespace Sys2Proof.Machine

/-- The default `FONT`: the hexadecimal font of spec/20_memory.md R47, 16 glyphs of 5 rows. The spec takes these bytes
from general knowledge (D12): PRESUMED, log entry 16, unsafe for a claim about the default font's pixels. No statement rests on them as a fact of the source. -/
def defaultFont : Font :=
  #v[0xF0, 0x90, 0x90, 0x90, 0xF0,  0x20, 0x60, 0x20, 0x20, 0x70,
     0xF0, 0x10, 0xF0, 0x80, 0xF0,  0xF0, 0x10, 0xF0, 0x10, 0xF0,
     0x90, 0x90, 0xF0, 0x10, 0x10,  0xF0, 0x80, 0xF0, 0x10, 0xF0,
     0xF0, 0x80, 0xF0, 0x90, 0xF0,  0xF0, 0x10, 0x20, 0x40, 0x40,
     0xF0, 0x90, 0xF0, 0x90, 0xF0,  0xF0, 0x90, 0xF0, 0x10, 0xF0,
     0xF0, 0x90, 0xF0, 0x90, 0x90,  0xE0, 0x90, 0xE0, 0x90, 0xE0,
     0xF0, 0x80, 0x80, 0x80, 0xF0,  0xE0, 0x90, 0x90, 0x90, 0xE0,
     0xF0, 0x80, 0xF0, 0x80, 0xF0,  0xF0, 0x80, 0xF0, 0x80, 0x80]

/-- The defaults of R5: the standard font, `EXTENT`, `WRITE`. -/
def defaultConfig : Config :=
  { font := defaultFont, drawBoundCheck := .extent, lowWritePolicy := .write }

end Sys2Proof.Machine
end

