-- ==== Sys2Proof/Machine/State.lean ====
section
/-! DEFINITION. The state of one machine instance (spec/10_state.md R13 to R41) as plain data, its reset, and the reasons
a step can stop. -/

namespace Sys2Proof.Machine

/-- The state of the decoder/executor (R29, R30, R32; spec/90_conflicts.md C12). -/
inductive Mode where
  | running
  | awaitingKey
  | faulted
  deriving DecidableEq, Repr

/-- The kinds of OutOfRangeAccess (spec/60_exceptions.md R141). -/
inductive FaultKind where
  | fetch
  | memRead
  | memWrite
  | display
  | stackOverflow
  | stackUnderflow
  | keyIndex
  deriving DecidableEq, Repr

/-- The fault record: kind, address of the faulting instruction, offending value (R33). -/
structure FaultRecord where
  kind : FaultKind
  pc : Word
  addr : Word
  deriving DecidableEq, Repr

/-- An UnknownOpcode report: the address of the word and the word (spec/60_exceptions.md R139). -/
structure UnknownReport where
  pc : Word
  op : Word
  deriving DecidableEq, Repr

/-- Why the machine stops for good. EMPTY: no step of this hardware stops. Every error the spec names has a described
effect (spec/60_exceptions.md R138): OutOfRangeAccess enters FAULTED, UnknownOpcode is reported and skipped, LoadOverflow
is the answer of `load`; each is a next state (log entry 8). Nobody raises a `Fault`; nothing is safe or unsafe about it. -/
inductive Fault where
  deriving DecidableEq, Repr

/-- Why an action has no meaning in the model. -/
inductive Refusal where
  /-- An instruction that has no meaning yet; raised by `exec`'s refused arms alone (there is none now). Safe. -/
  | notModelled (mnemonic : String)
  /-- `key_down` or `key_up` with an id outside 0..15, raised by the key transactions alone and by no step: the spec
  gives that action no transition (spec/60_exceptions.md R150, R152; D22; log entry 9). Unsafe for a host that breaks this
  duty, as R152 itself says: the runs it could cause are not in the model. -/
  | callerContract (id : Nat)
  deriving DecidableEq, Repr

/-- Memory: the bytes that differ from what the address reads as after reset, as (address, byte) pairs.
`Memory.wf` (Machine/Ops.lean) is its canonical form. -/
abbrev Memory := List Host.Cell

/-- The framebuffer: 32 rows of 64 one-bit cells. Bit `c` of row `r` is column `c` of row `r`, cell `c + r * 64` (R23).
DESIGN CHOICE, log entry 4, safe: the layout; the cells are the spec's. -/
abbrev Framebuffer := Vector (BitVec 64) 32

/-- Every piece of state the spec gives the machine, and the model's own fields at the end (log entries 1, 2 and 3). -/
structure State where
  /-- V0..VF (R13); VF, register 0xF, is also the flag (R14). -/
  v : Vector Byte 16
  /-- I, the index register (R19). -/
  i : Addr
  /-- PC (R16). -/
  pc : Word
  /-- SP, the number of stack entries in use, 0..16 (R21). -/
  sp : Fin 17
  /-- The call stack (R20). -/
  stack : Vector Word 16
  /-- Memory (R28). -/
  mem : Memory
  /-- The framebuffer (R23). -/
  fb : Framebuffer
  /-- The display dirty flag (R24). -/
  dirty : Bool
  /-- The delay timer (R25). -/
  delay : Byte
  /-- The sound timer (R26). -/
  sound : Byte
  /-- The keypad latch, one flag per key id (R27). -/
  keys : Vector Bool 16
  /-- R29. -/
  mode : Mode
  /-- wait_x, the target register of the pending Fx0A (R31). -/
  waitX : Reg
  /-- The fault record, `none` outside FAULTED (R33). -/
  fault : Option FaultRecord
  /-- The `tone` output of the latest step (R36). The model's own field: DESIGN CHOICE, log entry 1, safe. -/
  tone : Bool
  /-- The `unknown` output of the latest step (R36). The model's own field: DESIGN CHOICE, log entry 1, safe. -/
  unknown : Option UnknownReport
  /-- The byte the host has put at the random input for the next Cxnn (R37); `none`: the host has put none there, and the
  next Cxnn finds the free byte numbered `rndDraws`. The model's own field: DESIGN CHOICE, log entry 2. -/
  rnd : Option Byte
  /-- How many bytes Cxnn has consumed. The model's own field: DESIGN CHOICE, log entry 2. -/
  rndDraws : Nat
  /-- The open parameters (spec/00_scope.md R5). The model's own field: DESIGN CHOICE, log entry 3, safe. -/
  cfg : Config
  deriving DecidableEq, Repr

/-- The machine right after reset under given parameters (R41; spec/70_reset_and_hazards.md R159): memory lists nothing,
so it holds the font and zeros. -/
def State.resetWith (c : Config) : State where
  v := Vector.replicate 16 0
  i := 0
  pc := 0x200
  sp := 0
  stack := Vector.replicate 16 0
  mem := []
  fb := Vector.replicate 32 0
  dirty := false
  delay := 0
  sound := 0
  keys := Vector.replicate 16 false
  mode := .running
  waitX := 0
  fault := none
  tone := false
  unknown := none
  rnd := none
  rndDraws := 0
  cfg := c

/-- The machine right after construction or reset, under the default parameters (R41, R160). -/
def State.reset : State := State.resetWith defaultConfig

end Sys2Proof.Machine
end

