-- ==== Sys2Proof/Machine/Ops.lean ====
section
/-! DEFINITION. The named operations over registers, memory, stack, framebuffer and keypad, and the ways a step ends:
completing, reporting an unknown word, entering the key wait, taking OutOfRangeAccess. -/

namespace Sys2Proof.Machine

/-! ## Registers (spec/10_state.md R13, R19) -/

/-- `V[x]`. -/
def State.reg (s : State) (x : Reg) : Byte := s.v[x.toNat]'x.isLt

/-- `V[x] <- b`. -/
def State.setReg (s : State) (x : Reg) (b : Byte) : State := { s with v := s.v.set x.toNat b x.isLt }

/-- VF, the register that is also the flag (R14). -/
def flagReg : Reg := 0xF

/-- `I <- a`. -/
def State.setI (s : State) (a : Addr) : State := { s with i := a }

/-! ## Memory (spec/20_memory.md R42 to R60) -/

/-- What an address that nothing has written reads as: the reset contents, FONT at 0x000..0x04F and zero elsewhere
(spec/10_state.md R41). -/
def unlistedByte (font : Font) (a : Nat) : Byte := if h : a < 80 then font[a] else 0

/-- The byte at an address. -/
def readCells (font : Font) : Memory → Nat → Byte
  | [], a => unlistedByte font a
  | c :: rest, a => if c.1 = a then c.2 else readCells font rest a

/-- Put a pair before the first pair of a higher address. -/
def insertCell (a : Nat) (b : Byte) : Memory → Memory
  | [] => [(a, b)]
  | c :: rest => if a < c.1 then (a, b) :: c :: rest else c :: insertCell a b rest

/-- Write one byte: the address's old pair goes, and a new one comes unless the byte is what the address reads as
unlisted. -/
def writeCells (font : Font) (m : Memory) (a : Nat) (b : Byte) : Memory :=
  let rest := m.filter (fun c => c.1 ≠ a)
  if b = unlistedByte font a then rest else insertCell a b rest

/-- The canonical form: addresses strictly rising, inside the address space, and no pair that says what its address
reads as unlisted. -/
abbrev Memory.wf (font : Font) (m : Memory) : Prop :=
  m.Pairwise (fun c d => c.1 < d.1) ∧ ∀ c ∈ m, c.1 < memSize ∧ c.2 ≠ unlistedByte font c.1

/-- `mem[a]`. Callers check the bound first (R50). -/
def State.byteAt (s : State) (a : Nat) : Byte := readCells s.cfg.font s.mem a

/-- `mem[a] <- b`. Callers check the bound first (R50); an address outside the space is not stored to
(DESIGN CHOICE, log entry 7, safe: no caller reaches one). -/
def State.storeByte (s : State) (a : Nat) (b : Byte) : State :=
  if a < memSize then { s with mem := writeCells s.cfg.font s.mem a b } else s

/-- Store bytes at consecutive rising addresses (R52). -/
def State.storeBytes (s : State) (a : Nat) : List Byte → State
  | [] => s
  | b :: bs => State.storeBytes (s.storeByte a b) (a + 1) bs

/-- The bytes at `n` consecutive rising addresses (R52). -/
def State.bytesAt (s : State) (a n : Nat) : List Byte := (List.range n).map (fun k => s.byteAt (a + k))

/-- The first address of a block that lies outside memory, if one does: the bound check of R50 made on every address
before any access. -/
def blockOutside (a n : Nat) : Option Nat :=
  if n = 0 ∨ a + n ≤ memSize then none else some (max a memSize)

/-- The code R141 gives a fault kind. -/
def FaultKind.code : FaultKind → Nat
  | .fetch => 1
  | .memRead => 2
  | .memWrite => 3
  | .display => 4
  | .stackOverflow => 5
  | .stackUnderflow => 6
  | .keyIndex => 7

/-! ## Framebuffer (spec/10_state.md R23) -/

/-- Cell `k` = `c + r * 64`; cells beyond 2047 do not exist. -/
def cellAt (fb : Framebuffer) (k : Nat) : Bool :=
  if h : k / 64 < 32 then fb[k / 64].getLsbD (k % 64) else false

/-- Invert cell `k`. -/
def toggleCell (fb : Framebuffer) (k : Nat) : Framebuffer :=
  if h : k / 64 < 32 then fb.set (k / 64) (fb[k / 64] ^^^ BitVec.twoPow 64 (k % 64)) else fb

/-- Replace the framebuffer and mark it dirty (spec/43_display.md R119). -/
def State.show (s : State) (fb : Framebuffer) : State := { s with fb := fb, dirty := true }

/-! ## Keypad (spec/44_timers_keypad.md R133, R136) -/

/-- `keys[k]`. -/
def State.keyPressed (s : State) (k : Fin 16) : Bool := s.keys[k]

/-- The lowest pressed key id, if any is pressed. -/
def State.lowestKey (s : State) : Option (Fin 16) := (List.finRange 16).find? s.keyPressed

/-- A key id as a register's value. -/
def keyByte (k : Fin 16) : Byte := BitVec.ofNat 8 k.val

/-! ## Random input (spec/10_state.md R37) -/

/-- `rnd`: the byte the next Cxnn finds, the host's if it has put one there, else a free value (log entry 2). -/
def State.rndByte (s : State) : Byte :=
  match s.rnd with
  | some b => b
  | none => Config.freeByte s.rndDraws

/-- A Cxnn has consumed the byte at the random input: the next one is a fresh one (log entry 2). -/
def State.consumeRnd (s : State) : State := { s with rnd := none, rndDraws := s.rndDraws + 1 }

/-! ## How a step ends (spec/30_encoding.md R75 to R84) -/

/-- One timer's decrement: by one, stopping at zero (spec/44_timers_keypad.md R130). -/
def tick (t : Byte) : Byte := if t = 0 then 0 else t - 1

/-- The timer phase: `tone` is 1 exactly when it finds `sound` = 1 (R130, R131). -/
def State.timerPhase (s : State) : State :=
  { s with tone := decide (s.sound = 1), delay := tick s.delay, sound := tick s.sound }

/-- A step's instruction completes: its writes are in `s`, PC takes its next value, the timer phase runs, and no unknown
word is reported (R78, R80). -/
def State.complete (s : State) (next : Word) : State :=
  State.timerPhase { s with pc := next, unknown := none }

/-- Complete with the next word's address: PC + 2 (R80). The sum is 16 bits wide; in a state that satisfies the invariant
it does not wrap (R17; DESIGN CHOICE, log entry 6, safe). -/
def State.advance (s : State) : State := s.complete (s.pc + 2)

/-- Complete as a skip: PC + 4 if the condition holds, else PC + 2 (R80). -/
def State.skipIf (s : State) (cond : Bool) : State := s.complete (if cond then s.pc + 4 else s.pc + 2)

/-- Take OutOfRangeAccess: record the fault, enter FAULTED, emit nothing, change nothing else (R83;
spec/60_exceptions.md R140, R144). The spec has no return from it but reset (R145). -/
def State.takeFault (s : State) (kind : FaultKind) (addr : Nat) : State :=
  { s with
    fault := some { kind := kind, pc := s.pc, addr := BitVec.ofNat 16 addr }
    mode := .faulted
    tone := false
    unknown := none }

/-- Enter the key wait: only the mode and wait_x change, and nothing is emitted (R78, R84). -/
def State.enterWait (s : State) (x : Reg) : State :=
  { s with mode := .awaitingKey, waitX := x, tone := false, unknown := none }

/-- A RUNNING step on an UNKNOWN word: report it, PC + 2, timer phase (R82). -/
def State.unknownStep (s : State) (op : Word) : State :=
  State.timerPhase { s with pc := s.pc + 2, unknown := some { pc := s.pc, op := op } }

/-- A step that changes no state and emits nothing: its outputs are 0 and none (R75, R76). -/
def State.idleStep (s : State) : State := { s with tone := false, unknown := none }

/-- A step in AWAITING_KEY: the lowest pressed key completes the pending Fx0A, no key leaves all as it is (R77). That
wait_x keeps its value is DEDUCED, log entry 14, safe. -/
def State.awaitingStep (s : State) : State :=
  match s.lowestKey with
  | none => s.idleStep
  | some k => { (s.setReg s.waitX (keyByte k)).advance with mode := .running }

/-! ## Instruction fetch (spec/30_encoding.md R78, spec/20_memory.md R49) -/

/-- The word at PC, or the first address of it that lies outside memory. -/
def State.fetchWord (s : State) : Except Nat Word :=
  match blockOutside s.pc.toNat 2 with
  | some a => .error a
  | none => .ok (wordOfBytes (s.byteAt s.pc.toNat) (s.byteAt (s.pc.toNat + 1)))

/-- Place an instruction's bytes where the fetch reads them. -/
def State.placeAtPc (s : State) (bs : List Byte) : State := s.storeBytes s.pc.toNat bs

end Sys2Proof.Machine
end

