-- ==== Sys2Proof/Machine/Operands.lean ====
section
/-! DEFINITION. The operand forms beyond a plain register or immediate: the addresses an instruction reaches from I, the
register block V0..Vx, the key a register names, and the cells of a sprite. -/

namespace Sys2Proof.Machine

/-- An address operand as a value of PC: `nnn` widened with no change of value (spec/30_encoding.md R64). -/
def targetOf (nnn : Addr) : Word := nnn.setWidth 16

/-- I as a memory address: the base of every data access (spec/42_index_memory.md). -/
def State.base (s : State) : Nat := s.i.toNat

/-- How many registers V0..Vx are. -/
def blockLen (x : Reg) : Nat := x.toNat + 1

/-- The values of V0..Vx, V0 first. -/
def State.regBlock (s : State) (x : Reg) : List Byte := (List.range (blockLen x)).map (fun k => s.reg (BitVec.ofNat 4 k))

/-- Load V0..Vx from memory at I; the registers above Vx keep their values (spec/42_index_memory.md R115). -/
def State.loadRegBlock (s : State) (x : Reg) : State :=
  { s with v := Vector.ofFn (fun k : Fin 16 => if k.val ≤ x.toNat then s.byteAt (s.base + k.val) else s.v[k]) }

/-- The fault address of a write of `n` bytes at I, if it faults: first the bound of the address space, then
`LOW_WRITE_POLICY` (spec/60_exceptions.md R143; spec/20_memory.md R48). -/
def State.writeFault (s : State) (n : Nat) : Option Nat :=
  match blockOutside s.base n with
  | some a => some a
  | none => if s.cfg.lowWritePolicy = .fault ∧ s.base < programBase then some s.base else none

/-- The key flag a register's value names; none over 15 (spec/44_timers_keypad.md R134). -/
def State.keyFlag (s : State) (k : Byte) : Option Bool :=
  if h : k.toNat < 16 then some (s.keyPressed ⟨k.toNat, h⟩) else none

/-- The three decimal digits of a byte, hundreds first (spec/42_index_memory.md R113). -/
def bcdDigits (b : Byte) : List Byte :=
  [BitVec.ofNat 8 (b.toNat / 100), BitVec.ofNat 8 (b.toNat / 10 % 10), BitVec.ofNat 8 (b.toNat % 10)]

/-- The cell of a sprite's pixel at row `r`, column `c`: index arithmetic, no wrap and no clipping
(spec/43_display.md R118, R120). -/
def spriteCell (vx vy : Byte) (r c : Nat) : Nat := (vx.toNat + c) + (vy.toNat + r) * 64

/-- A sprite's pixels as (cell, bit), row by row; bit 7 of a row byte is its leftmost pixel (R122;
PRESUMED, log entry 12, unsafe: the spec takes the bit order from general knowledge). -/
def spritePixels (vx vy : Byte) (rows : List Byte) : List (Nat × Bool) :=
  rows.zipIdx.flatMap (fun row => (List.range 8).map (fun c => (spriteCell vx vy row.2 c, row.1.getLsbD (7 - c))))

/-- The cells whose sprite bit is 1: those a draw inverts. -/
def setCells (pixels : List (Nat × Bool)) : List Nat := (pixels.filter (fun p => p.2)).map (fun p => p.1)

/-- The cells `DRAW_BOUND_CHECK` checks (R121). -/
def checkedCells (check : DrawBoundCheck) (pixels : List (Nat × Bool)) : List Nat :=
  match check with
  | .extent => pixels.map (fun p => p.1)
  | .setBits => setCells pixels

/-- The lowest checked cell beyond 2047, if there is one (R118). -/
def lowestBadCell (cells : List Nat) : Option Nat := (cells.filter (fun k => displayCells ≤ k)).min?

end Sys2Proof.Machine
end

