-- ==== Sys2Proof/Machine/Flags.lean ====
section
/-! DEFINITION. Every computation of the flag VF (spec/10_state.md R14; spec/41_register_alu.md R96, R97), and the
arithmetic whose flag it is. All of it is unsigned. -/

namespace Sys2Proof.Machine

/-- A flag as a register's value. -/
def flagByte (b : Bool) : Byte := if b then 1 else 0

/-- (a + b) mod 256 (R96). -/
def sumByte (a b : Byte) : Byte := a + b

/-- 1 when the exact sum exceeds 255 (R96). -/
def carry (a b : Byte) : Bool := decide (a.toNat + b.toNat > 255)

/-- (a - b) mod 256 (R96). -/
def diffByte (a b : Byte) : Byte := a - b

/-- 1 when no borrow occurred, a ≥ b (R96). -/
def noBorrow (a b : Byte) : Bool := decide (b.toNat ≤ a.toNat)

/-- Logical shift right by one (R96, R106). -/
def shrByte (a : Byte) : Byte := a >>> 1

/-- The bit `shrByte` shifts out (R106). -/
def lowBit (a : Byte) : Bool := a.getLsbD 0

/-- Shift left by one, truncated to 8 bits (R96, R108). -/
def shlByte (a : Byte) : Byte := a <<< 1

/-- The bit `shlByte` shifts out (R108). -/
def highBit (a : Byte) : Bool := a.getLsbD 7

/-- (I + Vx) mod 0x1000 (spec/42_index_memory.md R111). -/
def sumIndex (i : Addr) (b : Byte) : Addr := i + b.setWidth 12

/-- 1 when the untruncated I + Vx exceeds 0xFFF (R111; spec/90_conflicts.md C9). -/
def indexOverflow (i : Addr) (b : Byte) : Bool := decide (i.toNat + b.toNat > 0xFFF)

/-- 1 when a draw inverts a cell that is 1 (spec/43_display.md R118). A draw's cells are distinct, so the framebuffer
before the draw decides it. -/
def collision (fb : Framebuffer) (cells : List Nat) : Bool := cells.any (cellAt fb)

/-- Write VF. -/
def State.setFlag (s : State) (b : Bool) : State := s.setReg flagReg (flagByte b)

/-- Write a flag into VF and a result into Vx, in that order: at x = 0xF the result stays (R97;
spec/90_conflicts.md C3). -/
def State.setFlagThenReg (s : State) (b : Bool) (x : Reg) (r : Byte) : State := (s.setFlag b).setReg x r

end Sys2Proof.Machine
end

