-- ==== Sys2Proof/Machine/ControlFlow.lean ====
section
/-! DEFINITION. Return, jumps, call and skips (spec/40_control_flow.md). PC in a meaning is the address of the
instruction itself. -/

namespace Sys2Proof.Machine

/-- 00EE (R87): pop, and resume at the instruction after the call; the popped slot keeps its value. -/
def execRet (s : State) : Host.Outcome State Fault Refusal :=
  if h : s.sp.val = 0 then .next (s.takeFault .stackUnderflow 0)
  else
    let slot := s.sp.val - 1
    let t := s.stack[slot]'(by have := s.sp.isLt; omega)
    .next (State.complete { s with sp := ⟨slot, by have := s.sp.isLt; omega⟩ } (t + 2))

/-- 1nnn (R88). -/
def execJp (nnn : Addr) (s : State) : Host.Outcome State Fault Refusal := .next (s.complete (targetOf nnn))

/-- 2nnn (R89): push the address of this 2nnn, then jump. -/
def execCall (nnn : Addr) (s : State) : Host.Outcome State Fault Refusal :=
  if h : s.sp.val < 16 then
    .next (State.complete
      { s with stack := s.stack.set s.sp.val s.pc h, sp := ⟨s.sp.val + 1, by omega⟩ } (targetOf nnn))
  else .next (s.takeFault .stackOverflow 16)

/-- 3xnn (R90). -/
def execSeImm (x : Reg) (nn : Byte) (s : State) : Host.Outcome State Fault Refusal :=
  .next (s.skipIf (decide (s.reg x = nn)))

/-- 4xnn (R91). -/
def execSneImm (x : Reg) (nn : Byte) (s : State) : Host.Outcome State Fault Refusal :=
  .next (s.skipIf (decide (s.reg x ≠ nn)))

/-- 5xy0 (R92). -/
def execSeReg (x y : Reg) (s : State) : Host.Outcome State Fault Refusal :=
  .next (s.skipIf (decide (s.reg x = s.reg y)))

/-- 9xy0 (R93). -/
def execSneReg (x y : Reg) (s : State) : Host.Outcome State Fault Refusal :=
  .next (s.skipIf (decide (s.reg x ≠ s.reg y)))

/-- Bnnn (R94): nnn + V0 as a 16-bit sum, which does not wrap. -/
def execJpV0 (nnn : Addr) (s : State) : Host.Outcome State Fault Refusal :=
  .next (s.complete (targetOf nnn + (s.reg 0).setWidth 16))

end Sys2Proof.Machine
end

