-- ==== Sys2Proof/Machine/Display.lean ====
section
/-! DEFINITION. The framebuffer and the sprite blitter (spec/43_display.md). -/

namespace Sys2Proof.Machine

/-- The clear display. -/
def blankDisplay : Framebuffer := Vector.replicate 32 0

/-- Invert every listed cell. -/
def toggleCells (fb : Framebuffer) (cells : List Nat) : Framebuffer := cells.foldl toggleCell fb

/-- 00E0 (R117): dirty is set even if no cell changes (R119). -/
def execCls (s : State) : Host.Outcome State Fault Refusal := .next (s.show blankDisplay).advance

/-- Dxyn (R118): the sprite's bytes are checked first, then its cells; then the set cells are inverted, VF tells of a
collision, and dirty is set. All operands are read before VF is written. -/
def execDrw (x y : Reg) (n : Nibble) (s : State) : Host.Outcome State Fault Refusal :=
  match blockOutside s.base n.toNat with
  | some a => .next (s.takeFault .memRead a)
  | none =>
    let pixels := spritePixels (s.reg x) (s.reg y) (s.bytesAt s.base n.toNat)
    match lowestBadCell (checkedCells s.cfg.drawBoundCheck pixels) with
    | some k => .next (s.takeFault .display k)
    | none =>
      let cells := setCells pixels
      .next ((s.show (toggleCells s.fb cells)).setFlag (collision s.fb cells)).advance

end Sys2Proof.Machine
end

