-- ==== Sys2Proof/Machine/IndexMemory.lean ====
section
/-! DEFINITION. The index register and memory transfer (spec/42_index_memory.md). I is unchanged by the transfers (D8),
and a transfer checks every address before it accesses any. -/

namespace Sys2Proof.Machine

/-- Annn (R110). -/
def execLdI (nnn : Addr) (s : State) : Host.Outcome State Fault Refusal := .next (s.setI nnn).advance

/-- Fx1E (R111): I wraps, VF tells whether the untruncated sum exceeded 0xFFF; x = 0xF adds the old VF. -/
def execAddI (x : Reg) (s : State) : Host.Outcome State Fault Refusal :=
  .next ((s.setFlag (indexOverflow s.i (s.reg x))).setI (sumIndex s.i (s.reg x))).advance

/-- Fx29 (R112): Vx * 5, with no mask on Vx. -/
def execLdF (x : Reg) (s : State) : Host.Outcome State Fault Refusal :=
  .next (s.setI (BitVec.ofNat 12 ((s.reg x).toNat * 5))).advance

/-- Fx33 (R113): the decimal digits of Vx at I, I + 1, I + 2. -/
def execLdB (x : Reg) (s : State) : Host.Outcome State Fault Refusal :=
  match s.writeFault 3 with
  | some a => .next (s.takeFault .memWrite a)
  | none => .next (s.storeBytes s.base (bcdDigits (s.reg x))).advance

/-- Fx55 (R114): V0..Vx to memory at I. -/
def execLdMemVx (x : Reg) (s : State) : Host.Outcome State Fault Refusal :=
  match s.writeFault (blockLen x) with
  | some a => .next (s.takeFault .memWrite a)
  | none => .next (s.storeBytes s.base (s.regBlock x)).advance

/-- Fx65 (R115): V0..Vx from memory at I. -/
def execLdVxMem (x : Reg) (s : State) : Host.Outcome State Fault Refusal :=
  match blockOutside s.base (blockLen x) with
  | some a => .next (s.takeFault .memRead a)
  | none => .next (s.loadRegBlock x).advance

end Sys2Proof.Machine
end

