-- ==== Sys2Proof/Machine/RegisterAlu.lean ====
section
/-! DEFINITION. Register loads, arithmetic, logic, shifts and random (spec/41_register_alu.md). Every instruction here
completes with PC + 2. -/

namespace Sys2Proof.Machine

/-- 6xnn (R98). -/
def execLdImm (x : Reg) (nn : Byte) (s : State) : Host.Outcome State Fault Refusal := .next (s.setReg x nn).advance

/-- 7xnn (R99): the carry goes to VF. -/
def execAddImm (x : Reg) (nn : Byte) (s : State) : Host.Outcome State Fault Refusal :=
  .next (s.setFlagThenReg (carry (s.reg x) nn) x (sumByte (s.reg x) nn)).advance

/-- 8xy0 (R100). -/
def execLdReg (x y : Reg) (s : State) : Host.Outcome State Fault Refusal := .next (s.setReg x (s.reg y)).advance

/-- 8xy1 (R101). -/
def execOrReg (x y : Reg) (s : State) : Host.Outcome State Fault Refusal :=
  .next (s.setReg x (s.reg x ||| s.reg y)).advance

/-- 8xy2 (R102). -/
def execAndReg (x y : Reg) (s : State) : Host.Outcome State Fault Refusal :=
  .next (s.setReg x (s.reg x &&& s.reg y)).advance

/-- 8xy3 (R103). -/
def execXorReg (x y : Reg) (s : State) : Host.Outcome State Fault Refusal :=
  .next (s.setReg x (s.reg x ^^^ s.reg y)).advance

/-- 8xy4 (R104). -/
def execAddReg (x y : Reg) (s : State) : Host.Outcome State Fault Refusal :=
  .next (s.setFlagThenReg (carry (s.reg x) (s.reg y)) x (sumByte (s.reg x) (s.reg y))).advance

/-- 8xy5 (R105): Vx - Vy. -/
def execSubReg (x y : Reg) (s : State) : Host.Outcome State Fault Refusal :=
  .next (s.setFlagThenReg (noBorrow (s.reg x) (s.reg y)) x (diffByte (s.reg x) (s.reg y))).advance

/-- 8xy6 (R106): Vx itself is shifted and the y field is not read. -/
def execShr (x _y : Reg) (s : State) : Host.Outcome State Fault Refusal :=
  .next (s.setFlagThenReg (lowBit (s.reg x)) x (shrByte (s.reg x))).advance

/-- 8xy7 (R107): Vy - Vx. -/
def execSubnReg (x y : Reg) (s : State) : Host.Outcome State Fault Refusal :=
  .next (s.setFlagThenReg (noBorrow (s.reg y) (s.reg x)) x (diffByte (s.reg y) (s.reg x))).advance

/-- 8xyE (R108): Vx itself is shifted and the y field is not read. -/
def execShl (x _y : Reg) (s : State) : Host.Outcome State Fault Refusal :=
  .next (s.setFlagThenReg (highBit (s.reg x)) x (shlByte (s.reg x))).advance

/-- Cxnn (R109): the byte at the random input, masked; the input is consumed (log entry 2). -/
def execRnd (x : Reg) (nn : Byte) (s : State) : Host.Outcome State Fault Refusal :=
  .next (s.consumeRnd.setReg x (s.rndByte &&& nn)).advance

end Sys2Proof.Machine
end

