-- ==== Sys2Proof/Machine/TimersKeypad.lean ====
section
/-! DEFINITION. Keypad and timer instructions (spec/44_timers_keypad.md). A timer an instruction writes is decremented
by the same step's timer phase, and a timer is read before it (R126, R128, R129). -/

namespace Sys2Proof.Machine

/-- Ex9E (R124): skip if the key numbered Vx is pressed; KEY_INDEX over 15 (R134). -/
def execSkp (x : Reg) (s : State) : Host.Outcome State Fault Refusal :=
  match s.keyFlag (s.reg x) with
  | some down => .next (s.skipIf down)
  | none => .next (s.takeFault .keyIndex (s.reg x).toNat)

/-- ExA1 (R125): skip if the key numbered Vx is not pressed; KEY_INDEX over 15 (R134). -/
def execSknp (x : Reg) (s : State) : Host.Outcome State Fault Refusal :=
  match s.keyFlag (s.reg x) with
  | some down => .next (s.skipIf (!down))
  | none => .next (s.takeFault .keyIndex (s.reg x).toNat)

/-- Fx07 (R126). -/
def execLdVxDt (x : Reg) (s : State) : Host.Outcome State Fault Refusal := .next (s.setReg x s.delay).advance

/-- Fx0A (R127): the lowest pressed key completes it at once; with none pressed the key wait begins. -/
def execLdVxK (x : Reg) (s : State) : Host.Outcome State Fault Refusal :=
  match s.lowestKey with
  | some k => .next (s.setReg x (keyByte k)).advance
  | none => .next (s.enterWait x)

/-- Fx15 (R128). -/
def execLdDtVx (x : Reg) (s : State) : Host.Outcome State Fault Refusal :=
  .next (State.advance { s with delay := s.reg x })

/-- Fx18 (R129). -/
def execLdStVx (x : Reg) (s : State) : Host.Outcome State Fault Refusal :=
  .next (State.advance { s with sound := s.reg x })

end Sys2Proof.Machine
end

