-- ==== Sys2Proof/Machine/Step.lean ====
section
/-! DEFINITION. One `step()` transaction (spec/30_encoding.md R75 to R84). Its outputs are left in the state's `tone` and
`unknown` (log entry 1). -/

namespace Sys2Proof.Machine

/-- One instruction cycle, by the mode (R75): FAULTED and AWAITING_KEY do not fetch; RUNNING fetches, decodes and executes,
and an UNKNOWN word is reported and skipped (R82). -/
def step (s : State) : Host.Outcome State Fault Refusal :=
  match s.mode with
  | .faulted => .next s.idleStep
  | .awaitingKey => .next s.awaitingStep
  | .running =>
    match s.fetchWord with
    | .error a => .next (s.takeFault .fetch a)
    | .ok op =>
      match decodeWord op with
      | .ok i => exec i s
      | .error _ => .next (s.unknownStep op)

/-- `s` with a table row's word stored at PC and the mode in which a step fetches (DESIGN CHOICE, log
entry 5, safe: it stands for the host's `load`, and no statement is about it). -/
def State.withFetchWord (s : State) (nbits w : Nat) : State :=
  { s.placeAtPc (tableWordBytes nbits w) with mode := .running, fault := none }

end Sys2Proof.Machine
end

