-- ==== Sys2Proof/Machine/Transactions.lean ====
section
/-! DEFINITION. The host's transactions (spec/10_state.md R35, R38; spec/60_exceptions.md R146 to R152): each is atomic,
and they are totally ordered. -/

namespace Sys2Proof.Machine

/-- The answer of `load` (R35). -/
inductive LoadResult where
  | ok
  | loadOverflow
  deriving DecidableEq, Repr

/-- `reset()` (spec/70_reset_and_hazards.md R159, R161): the reset state in any mode, under the machine's own parameters.
The random input is the host's and no state of the block, so it stays (log entry 2). -/
def State.resetByHost (s : State) : State := { State.resetWith s.cfg with rnd := s.rnd, rndDraws := s.rndDraws }

/-- `load(bytes)` (R146): copy to 0x200 and on, or LoadOverflow with nothing written (R142). -/
def State.loadImage (s : State) (bytes : List Byte) : LoadResult × State :=
  if loadMax < bytes.length then (.loadOverflow, s) else (.ok, s.storeBytes programBase bytes)

/-- `key_down(id)` and `key_up(id)` for a legal id (R150). -/
def State.setKey (s : State) (k : Fin 16) (down : Bool) : State := { s with keys := s.keys.set k.val down k.isLt }

/-- `read_display()` (R149): the framebuffer, and dirty is cleared. -/
def State.readDisplay (s : State) : Framebuffer × State := (s.fb, { s with dirty := false })

/-- `display_dirty()` (R148). -/
def State.displayDirty (s : State) : Bool := s.dirty

/-- The host drives the byte the next Cxnn samples (spec/10_state.md R37). -/
def State.driveRnd (s : State) (b : Byte) : State := { s with rnd := some b }

/-- One transaction between the host and the block (R35). Ids are plain numbers here, since a careless host could pass
any. -/
inductive Transaction where
  | reset
  | load (bytes : List Byte)
  | step
  | keyDown (id : Nat)
  | keyUp (id : Nat)
  | displayDirty
  | readDisplay
  | driveRnd (b : Byte)
  deriving DecidableEq, Repr

/-- What a transaction answers the host (R35). -/
inductive Output where
  | nothing
  | load (r : LoadResult)
  | step (tone : Bool) (unknown : Option UnknownReport)
  | dirty (d : Bool)
  | display (fb : Framebuffer)
  deriving DecidableEq, Repr

/-- A key transaction: an id outside 0..15 has no transition (R150, R152; D22; log entry 9). -/
def keyTransaction (s : State) (id : Nat) (down : Bool) : Host.Outcome (State × Output) Fault Refusal :=
  if h : id < 16 then .next (s.setKey ⟨id, h⟩ down, .nothing) else .refused (.callerContract id)

/-- The state and the answer after one transaction. -/
def transact (t : Transaction) (s : State) : Host.Outcome (State × Output) Fault Refusal :=
  match t with
  | .reset => .next (s.resetByHost, .nothing)
  | .load bytes => .next ((s.loadImage bytes).2, .load (s.loadImage bytes).1)
  | .step =>
    match step s with
    | .next s' => .next (s', .step s'.tone s'.unknown)
    | .fault r => .fault r
    | .refused r => .refused r
  | .keyDown id => keyTransaction s id true
  | .keyUp id => keyTransaction s id false
  | .displayDirty => .next (s, .dirty s.displayDirty)
  | .readDisplay => .next (s.readDisplay.2, .display s.readDisplay.1)
  | .driveRnd b => .next (s.driveRnd b, .nothing)

/-- A run: the state after a finite sequence of transactions, if each has a transition (R158). -/
def State.after (s : State) : List Transaction → Option State
  | [] => some s
  | t :: ts =>
    match transact t s with
    | .next (s', _) => State.after s' ts
    | _ => none

end Sys2Proof.Machine
end

