-- ==== Sys2Proof/Safety.lean ====
section
/-! DEFINITION. The terms statements use: the invariant of the machine, what a step keeps, what it means that a step
completed or faulted, and the tables of spec/ that say which instruction may touch which part of the state. -/

namespace Sys2Proof.Machine

/-! ## The invariant -/

/-- The invariant that every transaction keeps. Memory is in its canonical form; PC and every stack entry hold a value the
instructions can compute, so their arithmetic does not wrap (spec/10_state.md R16, R17; D7); a waiting PC is that of a
fetched Fx0A (R30); the fault record is `none` exactly outside FAULTED (R33); a machine that waits or is halted has
emitted nothing (spec/30_encoding.md R84). -/
structure State.Inv (s : State) : Prop where
  memory : Memory.wf s.cfg.font s.mem
  pcBound : s.pc.toNat ≤ 0x10FE
  stackBound : ∀ k : Fin 16, s.stack[k].toNat ≤ 0xFFE
  waitingPc : s.mode = .awaitingKey → s.pc.toNat ≤ 0xFFE
  faultRecord : s.fault = none ↔ s.mode ≠ .faulted
  quiet : s.mode ≠ .running → s.tone = false ∧ s.unknown = none

/-- A state a claim may call good: the invariant holds and nothing has faulted (spec/60_exceptions.md R158). -/
def State.Good (s : State) : Prop := s.Inv ∧ s.fault = none

/-! ## What stays the same -/

/-- Every register but the listed ones keeps its value. -/
def SameRegsBut (changed : List Reg) (s t : State) : Prop := ∀ r, r ∉ changed → t.reg r = s.reg r

/-- SP and every stack entry are unchanged. -/
def SameStack (s t : State) : Prop := t.sp = s.sp ∧ t.stack = s.stack

/-- Every byte of memory reads as before. -/
def SameMemory (s t : State) : Prop := ∀ a, t.byteAt a = s.byteAt a

/-- Every byte of memory outside `n` bytes from `base` reads as before. -/
def SameMemoryOutside (base n : Nat) (s t : State) : Prop := ∀ a, a < base ∨ base + n ≤ a → t.byteAt a = s.byteAt a

/-- The framebuffer and the dirty flag are unchanged. -/
def SameDisplay (s t : State) : Prop := t.fb = s.fb ∧ t.dirty = s.dirty

/-- Both timers are unchanged. -/
def SameTimers (s t : State) : Prop := t.delay = s.delay ∧ t.sound = s.sound

/-- The random input is unchanged. -/
def SameRandom (s t : State) : Prop := t.rnd = s.rnd ∧ t.rndDraws = s.rndDraws

/-- The keypad latch and the parameters are unchanged. -/
def SameInputs (s t : State) : Prop := t.keys = s.keys ∧ t.cfg = s.cfg

/-- Nothing but the listed registers changes among the registers, I, the stack, memory and the display. -/
def KeepsAllBut (changed : List Reg) (s t : State) : Prop :=
  SameRegsBut changed s t ∧ t.i = s.i ∧ SameStack s t ∧ SameMemory s t ∧ SameDisplay s t

/-- No state changes and nothing is emitted (spec/30_encoding.md R76, R77). -/
def NothingHappens (s t : State) : Prop := t = { s with tone := false, unknown := none }

/-! ## How a step ended -/

/-- A counter after its decrement, as a number: one less, stopping at zero (spec/44_timers_keypad.md R130). -/
def decremented (b : Byte) : Nat := b.toNat - 1

/-- The timer phase ran and found the timers at `delay` and `sound` (R130, R131). -/
def TimerPhaseRan (delay sound : Byte) (t : State) : Prop :=
  t.delay.toNat = decremented delay ∧ t.sound.toNat = decremented sound ∧ (t.tone = true ↔ sound.toNat = 1)

/-- The instruction completed: its step ran the timer phase on `delay` and `sound`, reported no unknown word, and left
the mode, wait_x, the fault record, the keys and the parameters alone (spec/30_encoding.md R78, R84). -/
def CompletedOn (delay sound : Byte) (s t : State) : Prop :=
  TimerPhaseRan delay sound t ∧ t.unknown = none ∧ t.mode = s.mode ∧ t.waitX = s.waitX ∧ t.fault = s.fault ∧ SameInputs s t

/-- The instruction completed, and it wrote no timer and consumed no random byte. -/
def Completed (s t : State) : Prop := CompletedOn s.delay s.sound s t ∧ SameRandom s t

/-- The step raised OutOfRangeAccess: the fault record and FAULTED, no output, and no other change
(spec/30_encoding.md R83). -/
def FaultsWith (kind : FaultKind) (addr : Nat) (s t : State) : Prop :=
  t.mode = .faulted ∧
  (∃ record, t.fault = some record ∧ record.kind = kind ∧ record.pc = s.pc ∧ record.addr.toNat = addr) ∧
  t.tone = false ∧ t.unknown = none ∧ t.pc = s.pc ∧ t.waitX = s.waitX ∧
  KeepsAllBut [] s t ∧ SameTimers s t ∧ SameRandom s t ∧ SameInputs s t

/-! ## The sprite of a Dxyn (spec/43_display.md R118, R121, R122) -/

/-- Row `r`, column `c` of the sprite lies in cell `k`. -/
def SpriteCellIs (s : State) (x y : Reg) (r c k : Nat) : Prop :=
  k = ((s.reg x).toNat + c) + ((s.reg y).toNat + r) * 64

/-- The draw inverts cell `k`: some pixel of the sprite lies there and its bit, counted from bit 7 at the left, is 1. -/
def SpriteSets (s : State) (x y : Reg) (n : Nibble) (k : Nat) : Prop :=
  ∃ r c, r < n.toNat ∧ c < 8 ∧ SpriteCellIs s x y r c k ∧ (s.byteAt (s.i.toNat + r)).getLsbD (7 - c) = true

/-- The draw checks cell `k`: under EXTENT every cell of the 8 x n rectangle, under SET_BITS the cells it inverts. -/
def SpriteChecks (s : State) (x y : Reg) (n : Nibble) (k : Nat) : Prop :=
  match s.cfg.drawBoundCheck with
  | .extent => ∃ r c, r < n.toNat ∧ c < 8 ∧ SpriteCellIs s x y r c k
  | .setBits => SpriteSets s x y n k

/-- The sprite's bytes lie in memory. -/
def SpriteReadable (s : State) (n : Nibble) : Prop := n.toNat = 0 ∨ s.i.toNat + n.toNat ≤ 0x1000

/-! ## Writes below 0x200 (spec/20_memory.md R48) -/

/-- The policy lets a program write at I. -/
def LowWriteAllowed (s : State) : Prop := s.cfg.lowWritePolicy = .write ∨ 0x200 ≤ s.i.toNat

/-! ## Which instruction touches what -/

/-- The general registers an instruction may write, by the table of spec/10_state.md R15. -/
def writtenRegs : Instr → List Reg
  | .ldImm x _ | .ldReg x _ | .orReg x _ | .andReg x _ | .xorReg x _ | .rnd x _ | .ldVxDt x | .ldVxK x => [x]
  | .addImm x _ | .addReg x _ | .subReg x _ | .shr x _ | .subnReg x _ | .shl x _ => [x, 0xF]
  | .ldVxMem x => (List.range (x.toNat + 1)).map (BitVec.ofNat 4)
  | .drw _ _ _ | .addI _ => [0xF]
  | .cls | .ret | .jp _ | .call _ | .seImm _ _ | .sneImm _ _ | .seReg _ _ | .sneReg _ _ | .ldI _ | .jpV0 _ | .skp _
  | .sknp _ | .ldDtVx _ | .ldStVx _ | .ldF _ | .ldB _ | .ldMemVx _ => []

/-- The instructions that write I (R19). -/
def writesIndex : Instr → Bool
  | .ldI _ | .addI _ | .ldF _ => true
  | _ => false

/-- The instructions that reach the call stack (R20). -/
def reachesStack : Instr → Bool
  | .ret | .call _ => true
  | _ => false

/-- The instructions that write memory (spec/20_memory.md R44). -/
def writesMemory : Instr → Bool
  | .ldB _ | .ldMemVx _ => true
  | _ => false

/-- The instructions that change the framebuffer or set dirty (spec/10_state.md R23, R24). -/
def writesDisplay : Instr → Bool
  | .cls | .drw _ _ _ => true
  | _ => false

/-- The fault kinds an instruction may raise (spec/60_exceptions.md R141). -/
def faultKindsOf : Instr → List FaultKind
  | .ret => [.stackUnderflow]
  | .call _ => [.stackOverflow]
  | .drw _ _ _ => [.memRead, .display]
  | .skp _ | .sknp _ => [.keyIndex]
  | .ldB _ | .ldMemVx _ => [.memWrite]
  | .ldVxMem _ => [.memRead]
  | _ => []

/-- The value the timer phase of a completed instruction finds in `delay`: Fx15 has written it (R128). -/
def phaseDelay (s : State) : Instr → Byte
  | .ldDtVx x => s.reg x
  | _ => s.delay

/-- The value the timer phase of a completed instruction finds in `sound`: Fx18 has written it (R129). -/
def phaseSound (s : State) : Instr → Byte
  | .ldStVx x => s.reg x
  | _ => s.sound

end Sys2Proof.Machine
end

