-- ==== Sys2Proof/Certificates/Slice0/Obligations.lean ====
section
/-! DEFINITION. The statements for the provers. Each says what a numbered rule of spec/ says, over every state of the
model (also states no run reaches) and every operand. The words of Safety.lean they use: `KeepsAllBut l s t` (registers
outside `l`, I, the stack, every byte of memory and the display are as before), `Completed s t` (the timer phase ran, no
unknown word was reported, and mode, wait_x, fault record, keys, parameters and random input are as before),
`FaultsWith kind addr s t` (the fault record and FAULTED, and nothing else). -/

open Sys2Proof Sys2Proof.Machine

/-! ## Encoding and decoding -/

/-- R62, R63, R66: the word of every well-formed instruction decodes to that instruction, with every field at every value. -/
def Obligations.DecodeOfEncodeIsTheInstruction : Prop :=
  ∀ i : Instr, i.wellFormed = true → decodeWord (encode i) = .ok i

/-- R66, R67: a word that decodes to an instruction is that instruction's word, so no bit of a word is ignored. -/
def Obligations.EncodeOfDecodeIsTheWord : Prop :=
  ∀ (op : Word) (i : Instr), decodeWord op = .ok i → encode i = op

/-- The spaces of R69, by the nibbles and the low byte of a word. -/
def Obligations.UnknownWordsAreTheListedSpaces : Prop :=
  ∀ op : Word, (∃ e, decodeWord op = .error e) ↔
    (op.toNat < 0x1000 ∧ op ≠ 0x00E0#16 ∧ op ≠ 0x00EE#16) ∨
    (op.toNat / 0x1000 = 0x5 ∧ op.toNat % 16 ≠ 0) ∨
    (op.toNat / 0x1000 = 0x8 ∧ op.toNat % 16 ∈ [0x8, 0x9, 0xA, 0xB, 0xC, 0xD, 0xF]) ∨
    (op.toNat / 0x1000 = 0x9 ∧ op.toNat % 16 ≠ 0) ∨
    (op.toNat / 0x1000 = 0xE ∧ op.toNat % 256 ∉ [0x9E, 0xA1]) ∨
    (op.toNat / 0x1000 = 0xF ∧ op.toNat % 256 ∉ [0x07, 0x0A, 0x15, 0x18, 0x1E, 0x29, 0x33, 0x55, 0x65])

/-- Sanity: words written out from the formats of R62, one or two of each family. -/
def Obligations.WrittenOutWordsDecode : Prop :=
  decodeWord 0b0000000011100000 = .ok .cls ∧ decodeWord 0b0000000011101110 = .ok .ret ∧
  decodeWord 0b0001001000110100 = .ok (.jp 0x234) ∧ decodeWord 0b0010001000010000 = .ok (.call 0x210) ∧
  decodeWord 0b0101000100100000 = .ok (.seReg 1 2) ∧ decodeWord 0b0111101011111111 = .ok (.addImm 0xA 0xFF) ∧
  decodeWord 0b1000000100100101 = .ok (.subReg 1 2) ∧ decodeWord 0b1101000000010010 = .ok (.drw 0 1 2) ∧
  decodeWord 0b1110010110011110 = .ok (.skp 5) ∧ decodeWord 0b1111001101010101 = .ok (.ldMemVx 3) ∧
  (∃ e, decodeWord 0b0101000100100001 = .error e) ∧ (∃ e, decodeWord 0b1000101010111000 = .error e)

/-! ## The instruction cycle -/

/-- R78: in RUNNING, when the big-endian word at PC decodes to an instruction, the step is that instruction's execution. -/
def Obligations.StepRunsTheDecodedInstruction : Prop :=
  ∀ (s : State) (i : Instr), s.mode = .running → s.pc.toNat + 1 ≤ 0xFFF →
    decodeWord (s.byteAt s.pc.toNat ++ s.byteAt (s.pc.toNat + 1)) = .ok i → step s = exec i s

/-- R82: an UNKNOWN word is reported, PC advances by 2, the timer phase runs, and nothing else changes. -/
def Obligations.UnknownWordIsReportedAndSkipped : Prop :=
  ∀ (s : State) (op : Word) (e : DecodeError), s.mode = .running → s.pc.toNat + 1 ≤ 0xFFF →
    op = s.byteAt s.pc.toNat ++ s.byteAt (s.pc.toNat + 1) → decodeWord op = .error e →
    ∃ t, step s = .next t ∧ t.unknown = some ⟨s.pc, op⟩ ∧ t.pc = s.pc + 2 ∧ TimerPhaseRan s.delay s.sound t ∧
      KeepsAllBut [] s t ∧ t.mode = .running ∧ t.waitX = s.waitX ∧ t.fault = s.fault ∧ SameInputs s t ∧ SameRandom s t

/-- R78, R141: a fetch that would reach past 0xFFF raises FETCH, with the first address outside. -/
def Obligations.FetchPastMemoryFaults : Prop :=
  ∀ s : State, s.mode = .running → s.pc.toNat + 1 > 0xFFF →
    ∃ t, step s = .next t ∧ FaultsWith .fetch (if s.pc.toNat > 0xFFF then s.pc.toNat else s.pc.toNat + 1) s t

/-- R76: a step in FAULTED changes no state and emits nothing. -/
def Obligations.FaultedStepDoesNothing : Prop :=
  ∀ s : State, s.mode = .faulted → ∃ t, step s = .next t ∧ NothingHappens s t

/-- R77: a step in AWAITING_KEY does nothing while no key is pressed; with a key pressed it completes the pending Fx0A
with the lowest id, in RUNNING, and runs the timer phase. The clause `t.waitX = s.waitX` on the step that resolves the wait
is the model's choice (log entry 14, DEDUCED): R77 does not say what becomes of wait_x. -/
def Obligations.WaitingStepPollsTheKeys : Prop :=
  ∀ s : State, s.mode = .awaitingKey →
    ((∀ k : Fin 16, s.keys[k] = false) → ∃ t, step s = .next t ∧ NothingHappens s t) ∧
    (∀ k : Fin 16, s.keys[k] = true → (∀ j : Fin 16, j < k → s.keys[j] = false) →
      ∃ t, step s = .next t ∧ (t.reg s.waitX).toNat = k.val ∧ KeepsAllBut [s.waitX] s t ∧ t.pc = s.pc + 2 ∧
        t.mode = .running ∧ TimerPhaseRan s.delay s.sound t ∧ t.unknown = none ∧ t.waitX = s.waitX ∧
        t.fault = s.fault ∧ SameInputs s t ∧ SameRandom s t)

/-! ## Control flow -/

/-- R87. `k` is the slot the pop reads. -/
def Obligations.RetPopsOrUnderflows : Prop :=
  decodeWord 0x00EE#16 = .ok .ret ∧ ∀ s : State,
    (s.sp.val = 0 → ∃ t, exec .ret s = .next t ∧ FaultsWith .stackUnderflow 0 s t) ∧
    (∀ k : Fin 16, s.sp.val = k.val + 1 →
      ∃ t, exec .ret s = .next t ∧ t.sp.val = k.val ∧ t.pc = s.stack[k] + 2 ∧ t.stack = s.stack ∧
        SameRegsBut [] s t ∧ t.i = s.i ∧ SameMemory s t ∧ SameDisplay s t ∧ Completed s t)

/-- R88. -/
def Obligations.JpSetsPcToTheAddress : Prop :=
  ∀ (nnn : Addr) (s : State), decodeWord (0x1#4 ++ nnn) = .ok (.jp nnn) ∧
    ∃ t, exec (.jp nnn) s = .next t ∧ t.pc.toNat = nnn.toNat ∧ KeepsAllBut [] s t ∧ Completed s t

/-- R89. `k` is the slot the push stores into. -/
def Obligations.CallPushesOrOverflows : Prop :=
  ∀ (nnn : Addr) (s : State), decodeWord (0x2#4 ++ nnn) = .ok (.call nnn) ∧
    (∀ k : Fin 16, s.sp.val = k.val →
      ∃ t, exec (.call nnn) s = .next t ∧ t.stack[k] = s.pc ∧ (∀ j : Fin 16, j ≠ k → t.stack[j] = s.stack[j]) ∧
        t.sp.val = k.val + 1 ∧ t.pc.toNat = nnn.toNat ∧
        SameRegsBut [] s t ∧ t.i = s.i ∧ SameMemory s t ∧ SameDisplay s t ∧ Completed s t) ∧
    (s.sp.val = 16 → ∃ t, exec (.call nnn) s = .next t ∧ FaultsWith .stackOverflow 16 s t)

/-- R90. -/
def Obligations.SeImmSkipsIfEqual : Prop :=
  ∀ (x : Reg) (nn : Byte) (s : State), decodeWord (0x3#4 ++ x ++ nn) = .ok (.seImm x nn) ∧
    ∃ t, exec (.seImm x nn) s = .next t ∧ t.pc = s.pc + (if (s.reg x).toNat = nn.toNat then 4 else 2) ∧
      KeepsAllBut [] s t ∧ Completed s t

/-- R91. -/
def Obligations.SneImmSkipsIfDifferent : Prop :=
  ∀ (x : Reg) (nn : Byte) (s : State), decodeWord (0x4#4 ++ x ++ nn) = .ok (.sneImm x nn) ∧
    ∃ t, exec (.sneImm x nn) s = .next t ∧ t.pc = s.pc + (if (s.reg x).toNat = nn.toNat then 2 else 4) ∧
      KeepsAllBut [] s t ∧ Completed s t

/-- R92: a low nibble other than 0 is UNKNOWN. -/
def Obligations.SeRegSkipsIfEqual : Prop :=
  ∀ (x y : Reg) (s : State), decodeWord (0x5#4 ++ x ++ y ++ 0x0#4) = .ok (.seReg x y) ∧
    (∀ n : Nibble, n ≠ 0 → ∃ e, decodeWord (0x5#4 ++ x ++ y ++ n) = .error e) ∧
    ∃ t, exec (.seReg x y) s = .next t ∧ t.pc = s.pc + (if (s.reg x).toNat = (s.reg y).toNat then 4 else 2) ∧
      KeepsAllBut [] s t ∧ Completed s t

/-- R93: a low nibble other than 0 is UNKNOWN. -/
def Obligations.SneRegSkipsIfDifferent : Prop :=
  ∀ (x y : Reg) (s : State), decodeWord (0x9#4 ++ x ++ y ++ 0x0#4) = .ok (.sneReg x y) ∧
    (∀ n : Nibble, n ≠ 0 → ∃ e, decodeWord (0x9#4 ++ x ++ y ++ n) = .error e) ∧
    ∃ t, exec (.sneReg x y) s = .next t ∧ t.pc = s.pc + (if (s.reg x).toNat = (s.reg y).toNat then 2 else 4) ∧
      KeepsAllBut [] s t ∧ Completed s t

/-- R94: the target is the exact sum nnn + V0; one past 0xFFE faults at the next fetch. -/
def Obligations.JpV0AddsV0WithoutWrap : Prop :=
  ∀ (nnn : Addr) (s : State), decodeWord (0xB#4 ++ nnn) = .ok (.jpV0 nnn) ∧
    ∃ t, exec (.jpV0 nnn) s = .next t ∧ t.pc.toNat = nnn.toNat + (s.reg 0x0).toNat ∧ KeepsAllBut [] s t ∧ Completed s t ∧
      (t.mode = .running → t.pc.toNat + 1 > 0xFFF →
        ∃ u, step t = .next u ∧ FaultsWith .fetch (if t.pc.toNat > 0xFFF then t.pc.toNat else t.pc.toNat + 1) t u)

/-! ## Register loads, arithmetic, logic, shifts and random -/

/-- R98. -/
def Obligations.LdImmLoadsTheImmediate : Prop :=
  ∀ (x : Reg) (nn : Byte) (s : State), decodeWord (0x6#4 ++ x ++ nn) = .ok (.ldImm x nn) ∧
    ∃ t, exec (.ldImm x nn) s = .next t ∧ t.reg x = nn ∧ t.pc = s.pc + 2 ∧ KeepsAllBut [x] s t ∧ Completed s t

/-- R99: at x = 0xF the result stays and the carry is lost. -/
def Obligations.AddImmSetsSumAndCarry : Prop :=
  ∀ (x : Reg) (nn : Byte) (s : State), decodeWord (0x7#4 ++ x ++ nn) = .ok (.addImm x nn) ∧
    ∃ t, exec (.addImm x nn) s = .next t ∧ (t.reg x).toNat = ((s.reg x).toNat + nn.toNat) % 256 ∧
      (x ≠ 0xF → t.reg 0xF = if (s.reg x).toNat + nn.toNat > 255 then 1 else 0) ∧
      t.pc = s.pc + 2 ∧ KeepsAllBut [x, 0xF] s t ∧ Completed s t

/-- R100. -/
def Obligations.LdRegCopies : Prop :=
  ∀ (x y : Reg) (s : State), decodeWord (0x8#4 ++ x ++ y ++ 0x0#4) = .ok (.ldReg x y) ∧
    ∃ t, exec (.ldReg x y) s = .next t ∧ t.reg x = s.reg y ∧ t.pc = s.pc + 2 ∧ KeepsAllBut [x] s t ∧ Completed s t

/-- R101: VF is unchanged unless it is the destination. -/
def Obligations.OrRegOrsTheBits : Prop :=
  ∀ (x y : Reg) (s : State), decodeWord (0x8#4 ++ x ++ y ++ 0x1#4) = .ok (.orReg x y) ∧
    ∃ t, exec (.orReg x y) s = .next t ∧
      (∀ k < 8, (t.reg x).getLsbD k = ((s.reg x).getLsbD k || (s.reg y).getLsbD k)) ∧
      t.pc = s.pc + 2 ∧ KeepsAllBut [x] s t ∧ Completed s t

/-- R102: VF is unchanged unless it is the destination. -/
def Obligations.AndRegAndsTheBits : Prop :=
  ∀ (x y : Reg) (s : State), decodeWord (0x8#4 ++ x ++ y ++ 0x2#4) = .ok (.andReg x y) ∧
    ∃ t, exec (.andReg x y) s = .next t ∧
      (∀ k < 8, (t.reg x).getLsbD k = ((s.reg x).getLsbD k && (s.reg y).getLsbD k)) ∧
      t.pc = s.pc + 2 ∧ KeepsAllBut [x] s t ∧ Completed s t

/-- R103: VF is unchanged unless it is the destination. -/
def Obligations.XorRegXorsTheBits : Prop :=
  ∀ (x y : Reg) (s : State), decodeWord (0x8#4 ++ x ++ y ++ 0x3#4) = .ok (.xorReg x y) ∧
    ∃ t, exec (.xorReg x y) s = .next t ∧
      (∀ k < 8, (t.reg x).getLsbD k = ((s.reg x).getLsbD k ^^ (s.reg y).getLsbD k)) ∧
      t.pc = s.pc + 2 ∧ KeepsAllBut [x] s t ∧ Completed s t

/-- R104. -/
def Obligations.AddRegSetsSumAndCarry : Prop :=
  ∀ (x y : Reg) (s : State), decodeWord (0x8#4 ++ x ++ y ++ 0x4#4) = .ok (.addReg x y) ∧
    ∃ t, exec (.addReg x y) s = .next t ∧ (t.reg x).toNat = ((s.reg x).toNat + (s.reg y).toNat) % 256 ∧
      (x ≠ 0xF → t.reg 0xF = if (s.reg x).toNat + (s.reg y).toNat > 255 then 1 else 0) ∧
      t.pc = s.pc + 2 ∧ KeepsAllBut [x, 0xF] s t ∧ Completed s t

/-- R105: the difference is written as the integer residue of Vx - Vy; VF is 1 when no borrow occurred. -/
def Obligations.SubRegSetsDifferenceAndNotBorrow : Prop :=
  ∀ (x y : Reg) (s : State), decodeWord (0x8#4 ++ x ++ y ++ 0x5#4) = .ok (.subReg x y) ∧
    ∃ t, exec (.subReg x y) s = .next t ∧ ((t.reg x).toNat : Int) = ((s.reg x).toNat - (s.reg y).toNat : Int) % 256 ∧
      (x ≠ 0xF → t.reg 0xF = if (s.reg x).toNat < (s.reg y).toNat then 0 else 1) ∧
      t.pc = s.pc + 2 ∧ KeepsAllBut [x, 0xF] s t ∧ Completed s t

/-- R106: y is not read. -/
def Obligations.ShrHalvesAndKeepsTheLowBit : Prop :=
  ∀ (x y : Reg) (s : State), decodeWord (0x8#4 ++ x ++ y ++ 0x6#4) = .ok (.shr x y) ∧
    ∃ t, exec (.shr x y) s = .next t ∧ (t.reg x).toNat = (s.reg x).toNat / 2 ∧
      (x ≠ 0xF → (t.reg 0xF).toNat = (s.reg x).toNat % 2) ∧
      t.pc = s.pc + 2 ∧ KeepsAllBut [x, 0xF] s t ∧ Completed s t

/-- R107: the difference is Vy - Vx. -/
def Obligations.SubnRegSetsReverseDifference : Prop :=
  ∀ (x y : Reg) (s : State), decodeWord (0x8#4 ++ x ++ y ++ 0x7#4) = .ok (.subnReg x y) ∧
    ∃ t, exec (.subnReg x y) s = .next t ∧ ((t.reg x).toNat : Int) = ((s.reg y).toNat - (s.reg x).toNat : Int) % 256 ∧
      (x ≠ 0xF → t.reg 0xF = if (s.reg y).toNat < (s.reg x).toNat then 0 else 1) ∧
      t.pc = s.pc + 2 ∧ KeepsAllBut [x, 0xF] s t ∧ Completed s t

/-- R108: y is not read. -/
def Obligations.ShlDoublesAndKeepsTheHighBit : Prop :=
  ∀ (x y : Reg) (s : State), decodeWord (0x8#4 ++ x ++ y ++ 0xE#4) = .ok (.shl x y) ∧
    ∃ t, exec (.shl x y) s = .next t ∧ (t.reg x).toNat = ((s.reg x).toNat * 2) % 256 ∧
      (x ≠ 0xF → (t.reg 0xF).toNat = (s.reg x).toNat / 128) ∧
      t.pc = s.pc + 2 ∧ KeepsAllBut [x, 0xF] s t ∧ Completed s t

/-- R109, for every byte at the random input. How a byte comes to stand there is the model's choice (log entry 2, DESIGN
CHOICE): it is the byte the host has driven, for every such byte, and where the host has driven none it is the free byte of
`Config.freeByte` numbered by `rndDraws`. -/
def Obligations.RndMasksTheRandomByte : Prop :=
  ∀ (x : Reg) (nn : Byte) (s : State), decodeWord (0xC#4 ++ x ++ nn) = .ok (.rnd x nn) ∧
    (∃ t, exec (.rnd x nn) s = .next t ∧
      (∀ b : Byte, s.rnd = some b → ∀ k < 8, (t.reg x).getLsbD k = (b.getLsbD k && nn.getLsbD k)) ∧
      (s.rnd = none → ∀ k < 8, (t.reg x).getLsbD k = ((Config.freeByte s.rndDraws).getLsbD k && nn.getLsbD k)) ∧
      t.pc = s.pc + 2 ∧ KeepsAllBut [x] s t ∧ CompletedOn s.delay s.sound s t) ∧
    (∀ b : Byte, transact (.driveRnd b) s = .next ({ s with rnd := some b }, .nothing))

/-- R37 in the model's own terms (log entry 2): Cxnn consumes exactly one byte, the host's if it has put one at the input,
and no other instruction touches the input. -/
def Obligations.OnlyRndConsumesTheRandomByte : Prop :=
  ∀ (i : Instr) (s t : State), exec i s = .next t →
    (∃ x nn, i = .rnd x nn ∧ t.rnd = none ∧ t.rndDraws = s.rndDraws + 1) ∨
    ((∀ x nn, i ≠ .rnd x nn) ∧ SameRandom s t)

/-! ## Index register and memory transfer -/

/-- R110. -/
def Obligations.LdILoadsTheAddress : Prop :=
  ∀ (nnn : Addr) (s : State), decodeWord (0xA#4 ++ nnn) = .ok (.ldI nnn) ∧
    ∃ t, exec (.ldI nnn) s = .next t ∧ t.i = nnn ∧ t.pc = s.pc + 2 ∧
      SameRegsBut [] s t ∧ SameStack s t ∧ SameMemory s t ∧ SameDisplay s t ∧ Completed s t

/-- R111: the flag tells of the sum before truncation, and at x = 0xF it replaces the value that was added. -/
def Obligations.AddISetsSumAndOverflow : Prop :=
  ∀ (x : Reg) (s : State), decodeWord (0xF#4 ++ x ++ 0x1E#8) = .ok (.addI x) ∧
    ∃ t, exec (.addI x) s = .next t ∧ t.i.toNat = (s.i.toNat + (s.reg x).toNat) % 0x1000 ∧
      t.reg 0xF = (if s.i.toNat + (s.reg x).toNat > 0xFFF then 1 else 0) ∧ t.pc = s.pc + 2 ∧
      SameRegsBut [0xF] s t ∧ SameStack s t ∧ SameMemory s t ∧ SameDisplay s t ∧ Completed s t

/-- R112: no mask on Vx. -/
def Obligations.LdFPointsAtTheGlyph : Prop :=
  ∀ (x : Reg) (s : State), decodeWord (0xF#4 ++ x ++ 0x29#8) = .ok (.ldF x) ∧
    ∃ t, exec (.ldF x) s = .next t ∧ t.i.toNat = (s.reg x).toNat * 5 ∧ t.pc = s.pc + 2 ∧
      SameRegsBut [] s t ∧ SameStack s t ∧ SameMemory s t ∧ SameDisplay s t ∧ Completed s t

/-- R113: the digits at I, I + 1, I + 2, or MEM_WRITE with nothing written; the bound of the space is checked first. -/
def Obligations.LdBStoresTheDecimalDigits : Prop :=
  ∀ (x : Reg) (s : State), decodeWord (0xF#4 ++ x ++ 0x33#8) = .ok (.ldB x) ∧
    (s.i.toNat + 2 > 0xFFF → ∃ t, exec (.ldB x) s = .next t ∧ FaultsWith .memWrite 0x1000 s t) ∧
    (s.i.toNat + 2 ≤ 0xFFF → ¬ LowWriteAllowed s →
      ∃ t, exec (.ldB x) s = .next t ∧ FaultsWith .memWrite s.i.toNat s t) ∧
    (s.i.toNat + 2 ≤ 0xFFF → LowWriteAllowed s →
      ∃ t, exec (.ldB x) s = .next t ∧
        (t.byteAt s.i.toNat).toNat = (s.reg x).toNat / 100 ∧
        (t.byteAt (s.i.toNat + 1)).toNat = (s.reg x).toNat / 10 % 10 ∧
        (t.byteAt (s.i.toNat + 2)).toNat = (s.reg x).toNat % 10 ∧
        SameMemoryOutside s.i.toNat 3 s t ∧ t.pc = s.pc + 2 ∧
        SameRegsBut [] s t ∧ t.i = s.i ∧ SameStack s t ∧ SameDisplay s t ∧ Completed s t)

/-- R114: V0..Vx at I, I unchanged, or MEM_WRITE with nothing written. -/
def Obligations.LdMemVxStoresTheRegisters : Prop :=
  ∀ (x : Reg) (s : State), decodeWord (0xF#4 ++ x ++ 0x55#8) = .ok (.ldMemVx x) ∧
    (s.i.toNat + x.toNat > 0xFFF → ∃ t, exec (.ldMemVx x) s = .next t ∧ FaultsWith .memWrite 0x1000 s t) ∧
    (s.i.toNat + x.toNat ≤ 0xFFF → ¬ LowWriteAllowed s →
      ∃ t, exec (.ldMemVx x) s = .next t ∧ FaultsWith .memWrite s.i.toNat s t) ∧
    (s.i.toNat + x.toNat ≤ 0xFFF → LowWriteAllowed s →
      ∃ t, exec (.ldMemVx x) s = .next t ∧
        (∀ q : Reg, q.toNat ≤ x.toNat → t.byteAt (s.i.toNat + q.toNat) = s.reg q) ∧
        SameMemoryOutside s.i.toNat (x.toNat + 1) s t ∧ t.pc = s.pc + 2 ∧
        SameRegsBut [] s t ∧ t.i = s.i ∧ SameStack s t ∧ SameDisplay s t ∧ Completed s t)

/-- R115: V0..Vx from I, the registers above Vx and I unchanged, or MEM_READ with no register changed. -/
def Obligations.LdVxMemLoadsTheRegisters : Prop :=
  ∀ (x : Reg) (s : State), decodeWord (0xF#4 ++ x ++ 0x65#8) = .ok (.ldVxMem x) ∧
    (s.i.toNat + x.toNat > 0xFFF → ∃ t, exec (.ldVxMem x) s = .next t ∧ FaultsWith .memRead 0x1000 s t) ∧
    (s.i.toNat + x.toNat ≤ 0xFFF →
      ∃ t, exec (.ldVxMem x) s = .next t ∧
        (∀ q : Reg, t.reg q = if q.toNat ≤ x.toNat then s.byteAt (s.i.toNat + q.toNat) else s.reg q) ∧
        t.pc = s.pc + 2 ∧ t.i = s.i ∧ SameStack s t ∧ SameMemory s t ∧ SameDisplay s t ∧ Completed s t)

/-- R116: a store of V0..Vx and a load from the same base, with any steps between that leave I and those bytes alone,
give the registers their stored values. -/
def Obligations.StoreThenLoadReproducesTheRegisters : Prop :=
  ∀ (x : Reg) (s : State), s.i.toNat + x.toNat ≤ 0xFFF → LowWriteAllowed s →
    ∃ t, exec (.ldMemVx x) s = .next t ∧
      ∀ m : State, m.i = s.i →
        (∀ q : Reg, q.toNat ≤ x.toNat → m.byteAt (s.i.toNat + q.toNat) = t.byteAt (s.i.toNat + q.toNat)) →
        ∃ u, exec (.ldVxMem x) m = .next u ∧ ∀ q : Reg, q.toNat ≤ x.toNat → u.reg q = s.reg q

/-- R59: a store over the next instruction's word is what the next fetch reads. -/
def Obligations.StoreOverNextWordIsFetched : Prop :=
  ∀ (x : Reg) (s : State), s.mode = .running → s.i.toNat = s.pc.toNat + 2 → 1 ≤ x.toNat → s.i.toNat + x.toNat ≤ 0xFFF →
    LowWriteAllowed s →
    ∃ t, exec (.ldMemVx x) s = .next t ∧
      ∀ i : Instr, decodeWord (s.reg 0x0 ++ s.reg 0x1) = .ok i → step t = exec i t

/-! ## Framebuffer and sprite blitter -/

/-- R117: every cell 0 and dirty set, whatever was there. -/
def Obligations.ClsClearsTheDisplay : Prop :=
  decodeWord 0x00E0#16 = .ok .cls ∧ ∀ s : State,
    ∃ t, exec .cls s = .next t ∧ (∀ k < 2048, cellAt t.fb k = false) ∧ t.dirty = true ∧ t.pc = s.pc + 2 ∧
      SameRegsBut [] s t ∧ t.i = s.i ∧ SameStack s t ∧ SameMemory s t ∧ Completed s t

/-- R118: the three outcomes of a draw. MEM_READ when the sprite's bytes run past 0xFFF; else DISPLAY with the lowest
checked cell beyond 2047; else exactly the set cells are inverted, VF tells whether one of them was 1, dirty is set. -/
def Obligations.DrwDrawsOrFaults : Prop :=
  ∀ (x y : Reg) (n : Nibble) (s : State), decodeWord (0xD#4 ++ x ++ y ++ n) = .ok (.drw x y n) ∧
    (¬ SpriteReadable s n → ∃ t, exec (.drw x y n) s = .next t ∧ FaultsWith .memRead 0x1000 s t) ∧
    (SpriteReadable s n →
      ∀ k, SpriteChecks s x y n k → k > 2047 → (∀ j, SpriteChecks s x y n j → j > 2047 → k ≤ j) →
        ∃ t, exec (.drw x y n) s = .next t ∧ FaultsWith .display k s t) ∧
    (SpriteReadable s n → (∀ k, SpriteChecks s x y n k → k ≤ 2047) →
      ∃ t, exec (.drw x y n) s = .next t ∧
        (∀ k < 2048, (SpriteSets s x y n k → cellAt t.fb k = !cellAt s.fb k) ∧
          (¬ SpriteSets s x y n k → cellAt t.fb k = cellAt s.fb k)) ∧
        ((∃ k, SpriteSets s x y n k ∧ cellAt s.fb k = true) → t.reg 0xF = 1) ∧
        ((∀ k, SpriteSets s x y n k → cellAt s.fb k = false) → t.reg 0xF = 0) ∧
        t.dirty = true ∧ t.pc = s.pc + 2 ∧
        SameRegsBut [0xF] s t ∧ t.i = s.i ∧ SameStack s t ∧ SameMemory s t ∧ Completed s t)

/-! ## Keypad and timer instructions -/

/-- R124, R134: skip if key Vx is pressed; KEY_INDEX over 15. -/
def Obligations.SkpSkipsIfPressed : Prop :=
  ∀ (x : Reg) (s : State), decodeWord (0xE#4 ++ x ++ 0x9E#8) = .ok (.skp x) ∧
    ((s.reg x).toNat > 15 → ∃ t, exec (.skp x) s = .next t ∧ FaultsWith .keyIndex (s.reg x).toNat s t) ∧
    (∀ k : Fin 16, (s.reg x).toNat = k.val →
      ∃ t, exec (.skp x) s = .next t ∧ t.pc = s.pc + (if s.keys[k] = true then 4 else 2) ∧
        KeepsAllBut [] s t ∧ Completed s t)

/-- R125, R134: skip if key Vx is not pressed; KEY_INDEX over 15. -/
def Obligations.SknpSkipsIfNotPressed : Prop :=
  ∀ (x : Reg) (s : State), decodeWord (0xE#4 ++ x ++ 0xA1#8) = .ok (.sknp x) ∧
    ((s.reg x).toNat > 15 → ∃ t, exec (.sknp x) s = .next t ∧ FaultsWith .keyIndex (s.reg x).toNat s t) ∧
    (∀ k : Fin 16, (s.reg x).toNat = k.val →
      ∃ t, exec (.sknp x) s = .next t ∧ t.pc = s.pc + (if s.keys[k] = true then 2 else 4) ∧
        KeepsAllBut [] s t ∧ Completed s t)

/-- R126: Vx receives the timer from before this step's decrement. -/
def Obligations.LdVxDtReadsTheDelayTimer : Prop :=
  ∀ (x : Reg) (s : State), decodeWord (0xF#4 ++ x ++ 0x07#8) = .ok (.ldVxDt x) ∧
    ∃ t, exec (.ldVxDt x) s = .next t ∧ t.reg x = s.delay ∧ t.pc = s.pc + 2 ∧ KeepsAllBut [x] s t ∧ Completed s t

/-- R127, R133: the lowest pressed key completes the instruction at once; with none pressed only the mode and wait_x
change, nothing is emitted and no timer phase runs. -/
def Obligations.LdVxKTakesTheLowestKeyOrWaits : Prop :=
  ∀ (x : Reg) (s : State), decodeWord (0xF#4 ++ x ++ 0x0A#8) = .ok (.ldVxK x) ∧
    (∀ k : Fin 16, s.keys[k] = true → (∀ j : Fin 16, j < k → s.keys[j] = false) →
      ∃ t, exec (.ldVxK x) s = .next t ∧ (t.reg x).toNat = k.val ∧ t.pc = s.pc + 2 ∧
        KeepsAllBut [x] s t ∧ Completed s t) ∧
    ((∀ k : Fin 16, s.keys[k] = false) →
      ∃ t, exec (.ldVxK x) s = .next t ∧ t.mode = .awaitingKey ∧ t.waitX = x ∧ t.tone = false ∧ t.unknown = none ∧
        t.pc = s.pc ∧ t.fault = s.fault ∧ KeepsAllBut [] s t ∧ SameTimers s t ∧ SameInputs s t ∧ SameRandom s t)

/-- R128: the same step's timer phase decrements what Fx15 wrote. -/
def Obligations.LdDtVxSetsTheDelayTimer : Prop :=
  ∀ (x : Reg) (s : State), decodeWord (0xF#4 ++ x ++ 0x15#8) = .ok (.ldDtVx x) ∧
    ∃ t, exec (.ldDtVx x) s = .next t ∧ t.delay.toNat = (s.reg x).toNat - 1 ∧ t.pc = s.pc + 2 ∧
      KeepsAllBut [] s t ∧ CompletedOn (s.reg x) s.sound s t ∧ SameRandom s t

/-- R129: the same step's timer phase decrements what Fx18 wrote, and emits `tone` at once for Vx = 1. -/
def Obligations.LdStVxSetsTheSoundTimer : Prop :=
  ∀ (x : Reg) (s : State), decodeWord (0xF#4 ++ x ++ 0x18#8) = .ok (.ldStVx x) ∧
    ∃ t, exec (.ldStVx x) s = .next t ∧ t.sound.toNat = (s.reg x).toNat - 1 ∧
      (t.tone = true ↔ (s.reg x).toNat = 1) ∧ t.pc = s.pc + 2 ∧
      KeepsAllBut [] s t ∧ CompletedOn s.delay (s.reg x) s t ∧ SameRandom s t

/-! ## Rules about the whole machine -/

/-- R75, R84: every step answers a next state, and the modes move only as the outcomes of R84 say. The `step` transaction
(R35, R36) answers that state with its `tone` and `unknown`: holding a step's outputs in the state is the model's choice
(log entry 1, DESIGN CHOICE). -/
def Obligations.EveryStepHasAnOutcome : Prop :=
  ∀ s : State, ∃ t, step s = .next t ∧ transact .step s = .next (t, .step t.tone t.unknown) ∧
    match s.mode with
    | .faulted => NothingHappens s t
    | .awaitingKey => NothingHappens s t ∨ (t.mode = .running ∧ t.pc = s.pc + 2 ∧ TimerPhaseRan s.delay s.sound t ∧ t.unknown = none)
    | .running =>
      (t.mode = .running ∧ t.fault = s.fault) ∨
      (t.mode = .awaitingKey ∧ t.pc = s.pc ∧ t.fault = s.fault ∧ SameTimers s t ∧ t.tone = false ∧ t.unknown = none) ∨
      (∃ kind addr, FaultsWith kind addr s t)

/-- R83: a step that raises OutOfRangeAccess changes nothing but the fault record and the mode. -/
def Obligations.FaultsArePrecise : Prop :=
  ∀ s t : State, s.mode ≠ .faulted → step s = .next t → t.mode = .faulted → ∃ kind addr, FaultsWith kind addr s t

/-- R140, R141: an instruction raises only the kinds the table gives it, and the others none. -/
def Obligations.OnlyTheNamedInstructionsFault : Prop :=
  ∀ (i : Instr) (s t : State), s.mode = .running → exec i s = .next t → t.mode = .faulted →
    ∃ kind addr, kind ∈ faultKindsOf i ∧ FaultsWith kind addr s t

/-- R15: an instruction writes no general register but those of the table. -/
def Obligations.RegistersChangeOnlyAsTheTableSays : Prop :=
  ∀ (i : Instr) (s t : State), exec i s = .next t → SameRegsBut (writtenRegs i) s t

/-- R19, R20, R23, R24, R27, R44: who may touch I, the stack, memory, the display and the keys. -/
def Obligations.PartsChangeOnlyByTheirInstructions : Prop :=
  ∀ (i : Instr) (s t : State), exec i s = .next t →
    (writesIndex i = false → t.i = s.i) ∧ (reachesStack i = false → SameStack s t) ∧
    (writesMemory i = false → SameMemory s t) ∧ (writesDisplay i = false → SameDisplay s t) ∧
    (s.dirty = true → t.dirty = true) ∧ SameInputs s t

/-- R81, R130, R131, R135: a step's timer phase runs exactly when the machine is RUNNING after it; it then decrements what
the instruction left in the timers, and `tone` is emitted exactly when it finds sound = 1. -/
def Obligations.TimersCountCompletedSteps : Prop :=
  ∀ s t : State, step s = .next t →
    (t.mode ≠ .running → SameTimers s t ∧ t.tone = false) ∧
    (s.mode = .awaitingKey → t.mode = .running → TimerPhaseRan s.delay s.sound t) ∧
    (s.mode = .running → t.mode = .running → ∀ op, s.fetchWord = .ok op →
      (∀ e, decodeWord op = .error e → TimerPhaseRan s.delay s.sound t) ∧
      (∀ i, decodeWord op = .ok i → TimerPhaseRan (phaseDelay s i) (phaseSound s i) t))

/-- The reset state, under any parameters, satisfies the invariant. -/
def Obligations.ResetSatisfiesTheInvariant : Prop := ∀ c : Config, (State.resetWith c).Inv

/-- Every step keeps the invariant. -/
def Obligations.StepKeepsTheInvariant : Prop := ∀ s t : State, s.Inv → step s = .next t → t.Inv

/-- Every run of host transactions from a state with the invariant ends in one, under the same parameters. -/
def Obligations.RunsKeepTheInvariant : Prop :=
  ∀ (s t : State) (run : List Transaction), s.Inv → s.after run = some t → t.Inv ∧ t.cfg = s.cfg

/-- R32, R145: no run without a reset leaves FAULTED or changes the fault record, PC or a general register. -/
def Obligations.OnlyResetLeavesFaulted : Prop :=
  ∀ (s t : State) (run : List Transaction), s.mode = .faulted → Transaction.reset ∉ run → s.after run = some t →
    t.mode = .faulted ∧ t.fault = s.fault ∧ t.pc = s.pc ∧ SameRegsBut [] s t ∧ SameTimers s t

/-! ## Host transactions -/

/-- R41, R159, R161: the state after `reset()`, whatever the machine was doing. -/
def Obligations.ResetGivesTheListedValues : Prop :=
  ∀ s : State, ∃ t, transact .reset s = .next (t, .nothing) ∧
    (∀ r, t.reg r = 0) ∧ t.i = 0 ∧ t.pc = 0x200 ∧ t.sp = 0 ∧ (∀ k : Fin 16, t.stack[k] = 0) ∧
    (∀ a : Fin 80, t.byteAt a.val = t.cfg.font[a]) ∧ (∀ a, 80 ≤ a → t.byteAt a = 0) ∧
    (∀ k < 2048, cellAt t.fb k = false) ∧ t.dirty = false ∧ t.delay = 0 ∧ t.sound = 0 ∧
    (∀ k : Fin 16, t.keys[k] = false) ∧ t.mode = .running ∧ t.waitX = 0 ∧ t.fault = none ∧
    t.tone = false ∧ t.unknown = none ∧ t.cfg = s.cfg

/-- R146, R142: `load` copies the image to 0x200 on and leaves all else alone, or answers LoadOverflow and changes
nothing. -/
def Obligations.LoadCopiesOrOverflows : Prop :=
  ∀ (s : State) (bytes : List Byte),
    (bytes.length > 0xFFF - 0x200 + 1 → transact (.load bytes) s = .next (s, .load .loadOverflow)) ∧
    (bytes.length ≤ 0xFFF - 0x200 + 1 →
      ∃ t, transact (.load bytes) s = .next (t, .load .ok) ∧
        (∀ k, (h : k < bytes.length) → t.byteAt (0x200 + k) = bytes[k]) ∧
        SameMemoryOutside 0x200 bytes.length s t ∧ t = { s with mem := t.mem })

/-- R148, R149: `read_display` answers the framebuffer and clears dirty, and a second one answers the same with dirty
clear. -/
def Obligations.ReadDisplayClearsDirty : Prop :=
  ∀ s : State, ∃ t, transact .readDisplay s = .next (t, .display s.fb) ∧ t = { s with dirty := false } ∧
    transact .displayDirty s = .next (s, .dirty s.dirty) ∧ transact .displayDirty t = .next (t, .dirty false) ∧
    transact .readDisplay t = .next (t, .display s.fb)

/-- R150, R152: `key_down` and `key_up` set and clear the flag of an id in 0..15 and nothing else; another id has no
transition. -/
def Obligations.KeyCallsSetOneFlag : Prop :=
  ∀ (s : State) (id : Nat) (down : Bool),
    let call := if down then Transaction.keyDown id else Transaction.keyUp id
    (∀ k : Fin 16, id = k.val →
      ∃ t, transact call s = .next (t, .nothing) ∧ t.keys[k] = down ∧
        (∀ j : Fin 16, j ≠ k → t.keys[j] = s.keys[j]) ∧ t = { s with keys := t.keys }) ∧
    (15 < id → transact call s = .refused (.callerContract id))
end

