-- ==== Sys2Proof/Laws/State.lean ====
section
/-! SUPPORT. One lemma per field per state update: what each named update of the state does to each field. They let a
proof about an instruction read off its result without unfolding a record update. -/

namespace Sys2Proof.Machine

/-! ### State.setReg -/

@[simp] theorem State.setReg_v (s : State) (x : Reg) (b : Byte) : (s.setReg x b).v = s.v.set x.toNat b x.isLt := rfl
@[simp] theorem State.setReg_i (s : State) (x : Reg) (b : Byte) : (s.setReg x b).i = s.i := rfl
@[simp] theorem State.setReg_pc (s : State) (x : Reg) (b : Byte) : (s.setReg x b).pc = s.pc := rfl
@[simp] theorem State.setReg_sp (s : State) (x : Reg) (b : Byte) : (s.setReg x b).sp = s.sp := rfl
@[simp] theorem State.setReg_stack (s : State) (x : Reg) (b : Byte) : (s.setReg x b).stack = s.stack := rfl
@[simp] theorem State.setReg_mem (s : State) (x : Reg) (b : Byte) : (s.setReg x b).mem = s.mem := rfl
@[simp] theorem State.setReg_fb (s : State) (x : Reg) (b : Byte) : (s.setReg x b).fb = s.fb := rfl
@[simp] theorem State.setReg_dirty (s : State) (x : Reg) (b : Byte) : (s.setReg x b).dirty = s.dirty := rfl
@[simp] theorem State.setReg_delay (s : State) (x : Reg) (b : Byte) : (s.setReg x b).delay = s.delay := rfl
@[simp] theorem State.setReg_sound (s : State) (x : Reg) (b : Byte) : (s.setReg x b).sound = s.sound := rfl
@[simp] theorem State.setReg_keys (s : State) (x : Reg) (b : Byte) : (s.setReg x b).keys = s.keys := rfl
@[simp] theorem State.setReg_mode (s : State) (x : Reg) (b : Byte) : (s.setReg x b).mode = s.mode := rfl
@[simp] theorem State.setReg_waitX (s : State) (x : Reg) (b : Byte) : (s.setReg x b).waitX = s.waitX := rfl
@[simp] theorem State.setReg_fault (s : State) (x : Reg) (b : Byte) : (s.setReg x b).fault = s.fault := rfl
@[simp] theorem State.setReg_tone (s : State) (x : Reg) (b : Byte) : (s.setReg x b).tone = s.tone := rfl
@[simp] theorem State.setReg_unknown (s : State) (x : Reg) (b : Byte) : (s.setReg x b).unknown = s.unknown := rfl
@[simp] theorem State.setReg_rnd (s : State) (x : Reg) (b : Byte) : (s.setReg x b).rnd = s.rnd := rfl
@[simp] theorem State.setReg_rndDraws (s : State) (x : Reg) (b : Byte) : (s.setReg x b).rndDraws = s.rndDraws := rfl
@[simp] theorem State.setReg_cfg (s : State) (x : Reg) (b : Byte) : (s.setReg x b).cfg = s.cfg := rfl
@[simp] theorem State.setReg_byteAt (s : State) (x : Reg) (b : Byte) (addr : Nat) : (s.setReg x b).byteAt addr = s.byteAt addr := rfl
@[simp] theorem State.setReg_base (s : State) (x : Reg) (b : Byte) : (s.setReg x b).base = s.base := rfl

/-! ### State.setFlag -/

@[simp] theorem State.setFlag_v (s : State) (b : Bool) : (s.setFlag b).v = s.v.set flagReg.toNat (flagByte b) flagReg.isLt := rfl
@[simp] theorem State.setFlag_i (s : State) (b : Bool) : (s.setFlag b).i = s.i := rfl
@[simp] theorem State.setFlag_pc (s : State) (b : Bool) : (s.setFlag b).pc = s.pc := rfl
@[simp] theorem State.setFlag_sp (s : State) (b : Bool) : (s.setFlag b).sp = s.sp := rfl
@[simp] theorem State.setFlag_stack (s : State) (b : Bool) : (s.setFlag b).stack = s.stack := rfl
@[simp] theorem State.setFlag_mem (s : State) (b : Bool) : (s.setFlag b).mem = s.mem := rfl
@[simp] theorem State.setFlag_fb (s : State) (b : Bool) : (s.setFlag b).fb = s.fb := rfl
@[simp] theorem State.setFlag_dirty (s : State) (b : Bool) : (s.setFlag b).dirty = s.dirty := rfl
@[simp] theorem State.setFlag_delay (s : State) (b : Bool) : (s.setFlag b).delay = s.delay := rfl
@[simp] theorem State.setFlag_sound (s : State) (b : Bool) : (s.setFlag b).sound = s.sound := rfl
@[simp] theorem State.setFlag_keys (s : State) (b : Bool) : (s.setFlag b).keys = s.keys := rfl
@[simp] theorem State.setFlag_mode (s : State) (b : Bool) : (s.setFlag b).mode = s.mode := rfl
@[simp] theorem State.setFlag_waitX (s : State) (b : Bool) : (s.setFlag b).waitX = s.waitX := rfl
@[simp] theorem State.setFlag_fault (s : State) (b : Bool) : (s.setFlag b).fault = s.fault := rfl
@[simp] theorem State.setFlag_tone (s : State) (b : Bool) : (s.setFlag b).tone = s.tone := rfl
@[simp] theorem State.setFlag_unknown (s : State) (b : Bool) : (s.setFlag b).unknown = s.unknown := rfl
@[simp] theorem State.setFlag_rnd (s : State) (b : Bool) : (s.setFlag b).rnd = s.rnd := rfl
@[simp] theorem State.setFlag_rndDraws (s : State) (b : Bool) : (s.setFlag b).rndDraws = s.rndDraws := rfl
@[simp] theorem State.setFlag_cfg (s : State) (b : Bool) : (s.setFlag b).cfg = s.cfg := rfl
@[simp] theorem State.setFlag_byteAt (s : State) (b : Bool) (addr : Nat) : (s.setFlag b).byteAt addr = s.byteAt addr := rfl
@[simp] theorem State.setFlag_base (s : State) (b : Bool) : (s.setFlag b).base = s.base := rfl

/-! ### State.setFlagThenReg -/

@[simp] theorem State.setFlagThenReg_v (s : State) (b : Bool) (x : Reg) (r : Byte) : (s.setFlagThenReg b x r).v = (s.setFlag b).v.set x.toNat r x.isLt := rfl
@[simp] theorem State.setFlagThenReg_i (s : State) (b : Bool) (x : Reg) (r : Byte) : (s.setFlagThenReg b x r).i = s.i := rfl
@[simp] theorem State.setFlagThenReg_pc (s : State) (b : Bool) (x : Reg) (r : Byte) : (s.setFlagThenReg b x r).pc = s.pc := rfl
@[simp] theorem State.setFlagThenReg_sp (s : State) (b : Bool) (x : Reg) (r : Byte) : (s.setFlagThenReg b x r).sp = s.sp := rfl
@[simp] theorem State.setFlagThenReg_stack (s : State) (b : Bool) (x : Reg) (r : Byte) : (s.setFlagThenReg b x r).stack = s.stack := rfl
@[simp] theorem State.setFlagThenReg_mem (s : State) (b : Bool) (x : Reg) (r : Byte) : (s.setFlagThenReg b x r).mem = s.mem := rfl
@[simp] theorem State.setFlagThenReg_fb (s : State) (b : Bool) (x : Reg) (r : Byte) : (s.setFlagThenReg b x r).fb = s.fb := rfl
@[simp] theorem State.setFlagThenReg_dirty (s : State) (b : Bool) (x : Reg) (r : Byte) : (s.setFlagThenReg b x r).dirty = s.dirty := rfl
@[simp] theorem State.setFlagThenReg_delay (s : State) (b : Bool) (x : Reg) (r : Byte) : (s.setFlagThenReg b x r).delay = s.delay := rfl
@[simp] theorem State.setFlagThenReg_sound (s : State) (b : Bool) (x : Reg) (r : Byte) : (s.setFlagThenReg b x r).sound = s.sound := rfl
@[simp] theorem State.setFlagThenReg_keys (s : State) (b : Bool) (x : Reg) (r : Byte) : (s.setFlagThenReg b x r).keys = s.keys := rfl
@[simp] theorem State.setFlagThenReg_mode (s : State) (b : Bool) (x : Reg) (r : Byte) : (s.setFlagThenReg b x r).mode = s.mode := rfl
@[simp] theorem State.setFlagThenReg_waitX (s : State) (b : Bool) (x : Reg) (r : Byte) : (s.setFlagThenReg b x r).waitX = s.waitX := rfl
@[simp] theorem State.setFlagThenReg_fault (s : State) (b : Bool) (x : Reg) (r : Byte) : (s.setFlagThenReg b x r).fault = s.fault := rfl
@[simp] theorem State.setFlagThenReg_tone (s : State) (b : Bool) (x : Reg) (r : Byte) : (s.setFlagThenReg b x r).tone = s.tone := rfl
@[simp] theorem State.setFlagThenReg_unknown (s : State) (b : Bool) (x : Reg) (r : Byte) : (s.setFlagThenReg b x r).unknown = s.unknown := rfl
@[simp] theorem State.setFlagThenReg_rnd (s : State) (b : Bool) (x : Reg) (r : Byte) : (s.setFlagThenReg b x r).rnd = s.rnd := rfl
@[simp] theorem State.setFlagThenReg_rndDraws (s : State) (b : Bool) (x : Reg) (r : Byte) : (s.setFlagThenReg b x r).rndDraws = s.rndDraws := rfl
@[simp] theorem State.setFlagThenReg_cfg (s : State) (b : Bool) (x : Reg) (r : Byte) : (s.setFlagThenReg b x r).cfg = s.cfg := rfl
@[simp] theorem State.setFlagThenReg_byteAt (s : State) (b : Bool) (x : Reg) (r : Byte) (addr : Nat) : (s.setFlagThenReg b x r).byteAt addr = s.byteAt addr := rfl
@[simp] theorem State.setFlagThenReg_base (s : State) (b : Bool) (x : Reg) (r : Byte) : (s.setFlagThenReg b x r).base = s.base := rfl

/-! ### State.setI -/

@[simp] theorem State.setI_v (s : State) (a : Addr) : (s.setI a).v = s.v := rfl
@[simp] theorem State.setI_i (s : State) (a : Addr) : (s.setI a).i = a := rfl
@[simp] theorem State.setI_pc (s : State) (a : Addr) : (s.setI a).pc = s.pc := rfl
@[simp] theorem State.setI_sp (s : State) (a : Addr) : (s.setI a).sp = s.sp := rfl
@[simp] theorem State.setI_stack (s : State) (a : Addr) : (s.setI a).stack = s.stack := rfl
@[simp] theorem State.setI_mem (s : State) (a : Addr) : (s.setI a).mem = s.mem := rfl
@[simp] theorem State.setI_fb (s : State) (a : Addr) : (s.setI a).fb = s.fb := rfl
@[simp] theorem State.setI_dirty (s : State) (a : Addr) : (s.setI a).dirty = s.dirty := rfl
@[simp] theorem State.setI_delay (s : State) (a : Addr) : (s.setI a).delay = s.delay := rfl
@[simp] theorem State.setI_sound (s : State) (a : Addr) : (s.setI a).sound = s.sound := rfl
@[simp] theorem State.setI_keys (s : State) (a : Addr) : (s.setI a).keys = s.keys := rfl
@[simp] theorem State.setI_mode (s : State) (a : Addr) : (s.setI a).mode = s.mode := rfl
@[simp] theorem State.setI_waitX (s : State) (a : Addr) : (s.setI a).waitX = s.waitX := rfl
@[simp] theorem State.setI_fault (s : State) (a : Addr) : (s.setI a).fault = s.fault := rfl
@[simp] theorem State.setI_tone (s : State) (a : Addr) : (s.setI a).tone = s.tone := rfl
@[simp] theorem State.setI_unknown (s : State) (a : Addr) : (s.setI a).unknown = s.unknown := rfl
@[simp] theorem State.setI_rnd (s : State) (a : Addr) : (s.setI a).rnd = s.rnd := rfl
@[simp] theorem State.setI_rndDraws (s : State) (a : Addr) : (s.setI a).rndDraws = s.rndDraws := rfl
@[simp] theorem State.setI_cfg (s : State) (a : Addr) : (s.setI a).cfg = s.cfg := rfl
@[simp] theorem State.setI_reg (s : State) (a : Addr) (q : Reg) : (s.setI a).reg q = s.reg q := rfl
@[simp] theorem State.setI_byteAt (s : State) (a : Addr) (addr : Nat) : (s.setI a).byteAt addr = s.byteAt addr := rfl

/-! ### State.show -/

@[simp] theorem State.show_v (s : State) (fb : Framebuffer) : (s.show fb).v = s.v := rfl
@[simp] theorem State.show_i (s : State) (fb : Framebuffer) : (s.show fb).i = s.i := rfl
@[simp] theorem State.show_pc (s : State) (fb : Framebuffer) : (s.show fb).pc = s.pc := rfl
@[simp] theorem State.show_sp (s : State) (fb : Framebuffer) : (s.show fb).sp = s.sp := rfl
@[simp] theorem State.show_stack (s : State) (fb : Framebuffer) : (s.show fb).stack = s.stack := rfl
@[simp] theorem State.show_mem (s : State) (fb : Framebuffer) : (s.show fb).mem = s.mem := rfl
@[simp] theorem State.show_fb (s : State) (fb : Framebuffer) : (s.show fb).fb = fb := rfl
@[simp] theorem State.show_dirty (s : State) (fb : Framebuffer) : (s.show fb).dirty = true := rfl
@[simp] theorem State.show_delay (s : State) (fb : Framebuffer) : (s.show fb).delay = s.delay := rfl
@[simp] theorem State.show_sound (s : State) (fb : Framebuffer) : (s.show fb).sound = s.sound := rfl
@[simp] theorem State.show_keys (s : State) (fb : Framebuffer) : (s.show fb).keys = s.keys := rfl
@[simp] theorem State.show_mode (s : State) (fb : Framebuffer) : (s.show fb).mode = s.mode := rfl
@[simp] theorem State.show_waitX (s : State) (fb : Framebuffer) : (s.show fb).waitX = s.waitX := rfl
@[simp] theorem State.show_fault (s : State) (fb : Framebuffer) : (s.show fb).fault = s.fault := rfl
@[simp] theorem State.show_tone (s : State) (fb : Framebuffer) : (s.show fb).tone = s.tone := rfl
@[simp] theorem State.show_unknown (s : State) (fb : Framebuffer) : (s.show fb).unknown = s.unknown := rfl
@[simp] theorem State.show_rnd (s : State) (fb : Framebuffer) : (s.show fb).rnd = s.rnd := rfl
@[simp] theorem State.show_rndDraws (s : State) (fb : Framebuffer) : (s.show fb).rndDraws = s.rndDraws := rfl
@[simp] theorem State.show_cfg (s : State) (fb : Framebuffer) : (s.show fb).cfg = s.cfg := rfl
@[simp] theorem State.show_reg (s : State) (fb : Framebuffer) (q : Reg) : (s.show fb).reg q = s.reg q := rfl
@[simp] theorem State.show_byteAt (s : State) (fb : Framebuffer) (addr : Nat) : (s.show fb).byteAt addr = s.byteAt addr := rfl
@[simp] theorem State.show_base (s : State) (fb : Framebuffer) : (s.show fb).base = s.base := rfl

/-! ### State.consumeRnd -/

@[simp] theorem State.consumeRnd_v (s : State) : (s.consumeRnd).v = s.v := rfl
@[simp] theorem State.consumeRnd_i (s : State) : (s.consumeRnd).i = s.i := rfl
@[simp] theorem State.consumeRnd_pc (s : State) : (s.consumeRnd).pc = s.pc := rfl
@[simp] theorem State.consumeRnd_sp (s : State) : (s.consumeRnd).sp = s.sp := rfl
@[simp] theorem State.consumeRnd_stack (s : State) : (s.consumeRnd).stack = s.stack := rfl
@[simp] theorem State.consumeRnd_mem (s : State) : (s.consumeRnd).mem = s.mem := rfl
@[simp] theorem State.consumeRnd_fb (s : State) : (s.consumeRnd).fb = s.fb := rfl
@[simp] theorem State.consumeRnd_dirty (s : State) : (s.consumeRnd).dirty = s.dirty := rfl
@[simp] theorem State.consumeRnd_delay (s : State) : (s.consumeRnd).delay = s.delay := rfl
@[simp] theorem State.consumeRnd_sound (s : State) : (s.consumeRnd).sound = s.sound := rfl
@[simp] theorem State.consumeRnd_keys (s : State) : (s.consumeRnd).keys = s.keys := rfl
@[simp] theorem State.consumeRnd_mode (s : State) : (s.consumeRnd).mode = s.mode := rfl
@[simp] theorem State.consumeRnd_waitX (s : State) : (s.consumeRnd).waitX = s.waitX := rfl
@[simp] theorem State.consumeRnd_fault (s : State) : (s.consumeRnd).fault = s.fault := rfl
@[simp] theorem State.consumeRnd_tone (s : State) : (s.consumeRnd).tone = s.tone := rfl
@[simp] theorem State.consumeRnd_unknown (s : State) : (s.consumeRnd).unknown = s.unknown := rfl
@[simp] theorem State.consumeRnd_rnd (s : State) : (s.consumeRnd).rnd = none := rfl
@[simp] theorem State.consumeRnd_rndDraws (s : State) : (s.consumeRnd).rndDraws = s.rndDraws + 1 := rfl
@[simp] theorem State.consumeRnd_cfg (s : State) : (s.consumeRnd).cfg = s.cfg := rfl
@[simp] theorem State.consumeRnd_reg (s : State) (q : Reg) : (s.consumeRnd).reg q = s.reg q := rfl
@[simp] theorem State.consumeRnd_byteAt (s : State) (addr : Nat) : (s.consumeRnd).byteAt addr = s.byteAt addr := rfl
@[simp] theorem State.consumeRnd_base (s : State) : (s.consumeRnd).base = s.base := rfl

/-! ### State.loadRegBlock -/

@[simp] theorem State.loadRegBlock_i (s : State) (x : Reg) : (s.loadRegBlock x).i = s.i := by simp only [State.loadRegBlock]
@[simp] theorem State.loadRegBlock_pc (s : State) (x : Reg) : (s.loadRegBlock x).pc = s.pc := by simp only [State.loadRegBlock]
@[simp] theorem State.loadRegBlock_sp (s : State) (x : Reg) : (s.loadRegBlock x).sp = s.sp := by simp only [State.loadRegBlock]
@[simp] theorem State.loadRegBlock_stack (s : State) (x : Reg) : (s.loadRegBlock x).stack = s.stack := by simp only [State.loadRegBlock]
@[simp] theorem State.loadRegBlock_mem (s : State) (x : Reg) : (s.loadRegBlock x).mem = s.mem := by simp only [State.loadRegBlock]
@[simp] theorem State.loadRegBlock_fb (s : State) (x : Reg) : (s.loadRegBlock x).fb = s.fb := by simp only [State.loadRegBlock]
@[simp] theorem State.loadRegBlock_dirty (s : State) (x : Reg) : (s.loadRegBlock x).dirty = s.dirty := by simp only [State.loadRegBlock]
@[simp] theorem State.loadRegBlock_delay (s : State) (x : Reg) : (s.loadRegBlock x).delay = s.delay := by simp only [State.loadRegBlock]
@[simp] theorem State.loadRegBlock_sound (s : State) (x : Reg) : (s.loadRegBlock x).sound = s.sound := by simp only [State.loadRegBlock]
@[simp] theorem State.loadRegBlock_keys (s : State) (x : Reg) : (s.loadRegBlock x).keys = s.keys := by simp only [State.loadRegBlock]
@[simp] theorem State.loadRegBlock_mode (s : State) (x : Reg) : (s.loadRegBlock x).mode = s.mode := by simp only [State.loadRegBlock]
@[simp] theorem State.loadRegBlock_waitX (s : State) (x : Reg) : (s.loadRegBlock x).waitX = s.waitX := by simp only [State.loadRegBlock]
@[simp] theorem State.loadRegBlock_fault (s : State) (x : Reg) : (s.loadRegBlock x).fault = s.fault := by simp only [State.loadRegBlock]
@[simp] theorem State.loadRegBlock_tone (s : State) (x : Reg) : (s.loadRegBlock x).tone = s.tone := by simp only [State.loadRegBlock]
@[simp] theorem State.loadRegBlock_unknown (s : State) (x : Reg) : (s.loadRegBlock x).unknown = s.unknown := by simp only [State.loadRegBlock]
@[simp] theorem State.loadRegBlock_rnd (s : State) (x : Reg) : (s.loadRegBlock x).rnd = s.rnd := by simp only [State.loadRegBlock]
@[simp] theorem State.loadRegBlock_rndDraws (s : State) (x : Reg) : (s.loadRegBlock x).rndDraws = s.rndDraws := by simp only [State.loadRegBlock]
@[simp] theorem State.loadRegBlock_cfg (s : State) (x : Reg) : (s.loadRegBlock x).cfg = s.cfg := by simp only [State.loadRegBlock]
@[simp] theorem State.loadRegBlock_byteAt (s : State) (x : Reg) (addr : Nat) : (s.loadRegBlock x).byteAt addr = s.byteAt addr := by simp only [State.loadRegBlock, State.byteAt, State.base]
@[simp] theorem State.loadRegBlock_base (s : State) (x : Reg) : (s.loadRegBlock x).base = s.base := by simp only [State.loadRegBlock, State.byteAt, State.base]

/-! ### State.timerPhase -/

@[simp] theorem State.timerPhase_v (s : State) : (s.timerPhase).v = s.v := rfl
@[simp] theorem State.timerPhase_i (s : State) : (s.timerPhase).i = s.i := rfl
@[simp] theorem State.timerPhase_pc (s : State) : (s.timerPhase).pc = s.pc := rfl
@[simp] theorem State.timerPhase_sp (s : State) : (s.timerPhase).sp = s.sp := rfl
@[simp] theorem State.timerPhase_stack (s : State) : (s.timerPhase).stack = s.stack := rfl
@[simp] theorem State.timerPhase_mem (s : State) : (s.timerPhase).mem = s.mem := rfl
@[simp] theorem State.timerPhase_fb (s : State) : (s.timerPhase).fb = s.fb := rfl
@[simp] theorem State.timerPhase_dirty (s : State) : (s.timerPhase).dirty = s.dirty := rfl
@[simp] theorem State.timerPhase_delay (s : State) : (s.timerPhase).delay = tick s.delay := rfl
@[simp] theorem State.timerPhase_sound (s : State) : (s.timerPhase).sound = tick s.sound := rfl
@[simp] theorem State.timerPhase_keys (s : State) : (s.timerPhase).keys = s.keys := rfl
@[simp] theorem State.timerPhase_mode (s : State) : (s.timerPhase).mode = s.mode := rfl
@[simp] theorem State.timerPhase_waitX (s : State) : (s.timerPhase).waitX = s.waitX := rfl
@[simp] theorem State.timerPhase_fault (s : State) : (s.timerPhase).fault = s.fault := rfl
@[simp] theorem State.timerPhase_tone (s : State) : (s.timerPhase).tone = decide (s.sound = 1) := rfl
@[simp] theorem State.timerPhase_unknown (s : State) : (s.timerPhase).unknown = s.unknown := rfl
@[simp] theorem State.timerPhase_rnd (s : State) : (s.timerPhase).rnd = s.rnd := rfl
@[simp] theorem State.timerPhase_rndDraws (s : State) : (s.timerPhase).rndDraws = s.rndDraws := rfl
@[simp] theorem State.timerPhase_cfg (s : State) : (s.timerPhase).cfg = s.cfg := rfl
@[simp] theorem State.timerPhase_reg (s : State) (q : Reg) : (s.timerPhase).reg q = s.reg q := rfl
@[simp] theorem State.timerPhase_byteAt (s : State) (addr : Nat) : (s.timerPhase).byteAt addr = s.byteAt addr := rfl
@[simp] theorem State.timerPhase_base (s : State) : (s.timerPhase).base = s.base := rfl

/-! ### State.complete -/

@[simp] theorem State.complete_v (s : State) (next : Word) : (s.complete next).v = s.v := rfl
@[simp] theorem State.complete_i (s : State) (next : Word) : (s.complete next).i = s.i := rfl
@[simp] theorem State.complete_pc (s : State) (next : Word) : (s.complete next).pc = next := rfl
@[simp] theorem State.complete_sp (s : State) (next : Word) : (s.complete next).sp = s.sp := rfl
@[simp] theorem State.complete_stack (s : State) (next : Word) : (s.complete next).stack = s.stack := rfl
@[simp] theorem State.complete_mem (s : State) (next : Word) : (s.complete next).mem = s.mem := rfl
@[simp] theorem State.complete_fb (s : State) (next : Word) : (s.complete next).fb = s.fb := rfl
@[simp] theorem State.complete_dirty (s : State) (next : Word) : (s.complete next).dirty = s.dirty := rfl
@[simp] theorem State.complete_delay (s : State) (next : Word) : (s.complete next).delay = tick s.delay := rfl
@[simp] theorem State.complete_sound (s : State) (next : Word) : (s.complete next).sound = tick s.sound := rfl
@[simp] theorem State.complete_keys (s : State) (next : Word) : (s.complete next).keys = s.keys := rfl
@[simp] theorem State.complete_mode (s : State) (next : Word) : (s.complete next).mode = s.mode := rfl
@[simp] theorem State.complete_waitX (s : State) (next : Word) : (s.complete next).waitX = s.waitX := rfl
@[simp] theorem State.complete_fault (s : State) (next : Word) : (s.complete next).fault = s.fault := rfl
@[simp] theorem State.complete_tone (s : State) (next : Word) : (s.complete next).tone = decide (s.sound = 1) := rfl
@[simp] theorem State.complete_unknown (s : State) (next : Word) : (s.complete next).unknown = none := rfl
@[simp] theorem State.complete_rnd (s : State) (next : Word) : (s.complete next).rnd = s.rnd := rfl
@[simp] theorem State.complete_rndDraws (s : State) (next : Word) : (s.complete next).rndDraws = s.rndDraws := rfl
@[simp] theorem State.complete_cfg (s : State) (next : Word) : (s.complete next).cfg = s.cfg := rfl
@[simp] theorem State.complete_reg (s : State) (next : Word) (q : Reg) : (s.complete next).reg q = s.reg q := rfl
@[simp] theorem State.complete_byteAt (s : State) (next : Word) (addr : Nat) : (s.complete next).byteAt addr = s.byteAt addr := rfl
@[simp] theorem State.complete_base (s : State) (next : Word) : (s.complete next).base = s.base := rfl

/-! ### State.advance -/

@[simp] theorem State.advance_v (s : State) : (s.advance).v = s.v := rfl
@[simp] theorem State.advance_i (s : State) : (s.advance).i = s.i := rfl
@[simp] theorem State.advance_pc (s : State) : (s.advance).pc = s.pc + 2 := rfl
@[simp] theorem State.advance_sp (s : State) : (s.advance).sp = s.sp := rfl
@[simp] theorem State.advance_stack (s : State) : (s.advance).stack = s.stack := rfl
@[simp] theorem State.advance_mem (s : State) : (s.advance).mem = s.mem := rfl
@[simp] theorem State.advance_fb (s : State) : (s.advance).fb = s.fb := rfl
@[simp] theorem State.advance_dirty (s : State) : (s.advance).dirty = s.dirty := rfl
@[simp] theorem State.advance_delay (s : State) : (s.advance).delay = tick s.delay := rfl
@[simp] theorem State.advance_sound (s : State) : (s.advance).sound = tick s.sound := rfl
@[simp] theorem State.advance_keys (s : State) : (s.advance).keys = s.keys := rfl
@[simp] theorem State.advance_mode (s : State) : (s.advance).mode = s.mode := rfl
@[simp] theorem State.advance_waitX (s : State) : (s.advance).waitX = s.waitX := rfl
@[simp] theorem State.advance_fault (s : State) : (s.advance).fault = s.fault := rfl
@[simp] theorem State.advance_tone (s : State) : (s.advance).tone = decide (s.sound = 1) := rfl
@[simp] theorem State.advance_unknown (s : State) : (s.advance).unknown = none := rfl
@[simp] theorem State.advance_rnd (s : State) : (s.advance).rnd = s.rnd := rfl
@[simp] theorem State.advance_rndDraws (s : State) : (s.advance).rndDraws = s.rndDraws := rfl
@[simp] theorem State.advance_cfg (s : State) : (s.advance).cfg = s.cfg := rfl
@[simp] theorem State.advance_reg (s : State) (q : Reg) : (s.advance).reg q = s.reg q := rfl
@[simp] theorem State.advance_byteAt (s : State) (addr : Nat) : (s.advance).byteAt addr = s.byteAt addr := rfl
@[simp] theorem State.advance_base (s : State) : (s.advance).base = s.base := rfl

/-! ### State.skipIf -/

@[simp] theorem State.skipIf_v (s : State) (c : Bool) : (s.skipIf c).v = s.v := rfl
@[simp] theorem State.skipIf_i (s : State) (c : Bool) : (s.skipIf c).i = s.i := rfl
@[simp] theorem State.skipIf_pc (s : State) (c : Bool) : (s.skipIf c).pc = if c then s.pc + 4 else s.pc + 2 := rfl
@[simp] theorem State.skipIf_sp (s : State) (c : Bool) : (s.skipIf c).sp = s.sp := rfl
@[simp] theorem State.skipIf_stack (s : State) (c : Bool) : (s.skipIf c).stack = s.stack := rfl
@[simp] theorem State.skipIf_mem (s : State) (c : Bool) : (s.skipIf c).mem = s.mem := rfl
@[simp] theorem State.skipIf_fb (s : State) (c : Bool) : (s.skipIf c).fb = s.fb := rfl
@[simp] theorem State.skipIf_dirty (s : State) (c : Bool) : (s.skipIf c).dirty = s.dirty := rfl
@[simp] theorem State.skipIf_delay (s : State) (c : Bool) : (s.skipIf c).delay = tick s.delay := rfl
@[simp] theorem State.skipIf_sound (s : State) (c : Bool) : (s.skipIf c).sound = tick s.sound := rfl
@[simp] theorem State.skipIf_keys (s : State) (c : Bool) : (s.skipIf c).keys = s.keys := rfl
@[simp] theorem State.skipIf_mode (s : State) (c : Bool) : (s.skipIf c).mode = s.mode := rfl
@[simp] theorem State.skipIf_waitX (s : State) (c : Bool) : (s.skipIf c).waitX = s.waitX := rfl
@[simp] theorem State.skipIf_fault (s : State) (c : Bool) : (s.skipIf c).fault = s.fault := rfl
@[simp] theorem State.skipIf_tone (s : State) (c : Bool) : (s.skipIf c).tone = decide (s.sound = 1) := rfl
@[simp] theorem State.skipIf_unknown (s : State) (c : Bool) : (s.skipIf c).unknown = none := rfl
@[simp] theorem State.skipIf_rnd (s : State) (c : Bool) : (s.skipIf c).rnd = s.rnd := rfl
@[simp] theorem State.skipIf_rndDraws (s : State) (c : Bool) : (s.skipIf c).rndDraws = s.rndDraws := rfl
@[simp] theorem State.skipIf_cfg (s : State) (c : Bool) : (s.skipIf c).cfg = s.cfg := rfl
@[simp] theorem State.skipIf_reg (s : State) (c : Bool) (q : Reg) : (s.skipIf c).reg q = s.reg q := rfl
@[simp] theorem State.skipIf_byteAt (s : State) (c : Bool) (addr : Nat) : (s.skipIf c).byteAt addr = s.byteAt addr := rfl
@[simp] theorem State.skipIf_base (s : State) (c : Bool) : (s.skipIf c).base = s.base := rfl

/-! ### State.takeFault -/

@[simp] theorem State.takeFault_v (s : State) (k : FaultKind) (a : Nat) : (s.takeFault k a).v = s.v := rfl
@[simp] theorem State.takeFault_i (s : State) (k : FaultKind) (a : Nat) : (s.takeFault k a).i = s.i := rfl
@[simp] theorem State.takeFault_pc (s : State) (k : FaultKind) (a : Nat) : (s.takeFault k a).pc = s.pc := rfl
@[simp] theorem State.takeFault_sp (s : State) (k : FaultKind) (a : Nat) : (s.takeFault k a).sp = s.sp := rfl
@[simp] theorem State.takeFault_stack (s : State) (k : FaultKind) (a : Nat) : (s.takeFault k a).stack = s.stack := rfl
@[simp] theorem State.takeFault_mem (s : State) (k : FaultKind) (a : Nat) : (s.takeFault k a).mem = s.mem := rfl
@[simp] theorem State.takeFault_fb (s : State) (k : FaultKind) (a : Nat) : (s.takeFault k a).fb = s.fb := rfl
@[simp] theorem State.takeFault_dirty (s : State) (k : FaultKind) (a : Nat) : (s.takeFault k a).dirty = s.dirty := rfl
@[simp] theorem State.takeFault_delay (s : State) (k : FaultKind) (a : Nat) : (s.takeFault k a).delay = s.delay := rfl
@[simp] theorem State.takeFault_sound (s : State) (k : FaultKind) (a : Nat) : (s.takeFault k a).sound = s.sound := rfl
@[simp] theorem State.takeFault_keys (s : State) (k : FaultKind) (a : Nat) : (s.takeFault k a).keys = s.keys := rfl
@[simp] theorem State.takeFault_mode (s : State) (k : FaultKind) (a : Nat) : (s.takeFault k a).mode = .faulted := rfl
@[simp] theorem State.takeFault_waitX (s : State) (k : FaultKind) (a : Nat) : (s.takeFault k a).waitX = s.waitX := rfl
@[simp] theorem State.takeFault_fault (s : State) (k : FaultKind) (a : Nat) : (s.takeFault k a).fault = some { kind := k, pc := s.pc, addr := BitVec.ofNat 16 a } := rfl
@[simp] theorem State.takeFault_tone (s : State) (k : FaultKind) (a : Nat) : (s.takeFault k a).tone = false := rfl
@[simp] theorem State.takeFault_unknown (s : State) (k : FaultKind) (a : Nat) : (s.takeFault k a).unknown = none := rfl
@[simp] theorem State.takeFault_rnd (s : State) (k : FaultKind) (a : Nat) : (s.takeFault k a).rnd = s.rnd := rfl
@[simp] theorem State.takeFault_rndDraws (s : State) (k : FaultKind) (a : Nat) : (s.takeFault k a).rndDraws = s.rndDraws := rfl
@[simp] theorem State.takeFault_cfg (s : State) (k : FaultKind) (a : Nat) : (s.takeFault k a).cfg = s.cfg := rfl
@[simp] theorem State.takeFault_reg (s : State) (k : FaultKind) (a : Nat) (q : Reg) : (s.takeFault k a).reg q = s.reg q := rfl
@[simp] theorem State.takeFault_byteAt (s : State) (k : FaultKind) (a : Nat) (addr : Nat) : (s.takeFault k a).byteAt addr = s.byteAt addr := rfl
@[simp] theorem State.takeFault_base (s : State) (k : FaultKind) (a : Nat) : (s.takeFault k a).base = s.base := rfl

/-! ### State.enterWait -/

@[simp] theorem State.enterWait_v (s : State) (x : Reg) : (s.enterWait x).v = s.v := rfl
@[simp] theorem State.enterWait_i (s : State) (x : Reg) : (s.enterWait x).i = s.i := rfl
@[simp] theorem State.enterWait_pc (s : State) (x : Reg) : (s.enterWait x).pc = s.pc := rfl
@[simp] theorem State.enterWait_sp (s : State) (x : Reg) : (s.enterWait x).sp = s.sp := rfl
@[simp] theorem State.enterWait_stack (s : State) (x : Reg) : (s.enterWait x).stack = s.stack := rfl
@[simp] theorem State.enterWait_mem (s : State) (x : Reg) : (s.enterWait x).mem = s.mem := rfl
@[simp] theorem State.enterWait_fb (s : State) (x : Reg) : (s.enterWait x).fb = s.fb := rfl
@[simp] theorem State.enterWait_dirty (s : State) (x : Reg) : (s.enterWait x).dirty = s.dirty := rfl
@[simp] theorem State.enterWait_delay (s : State) (x : Reg) : (s.enterWait x).delay = s.delay := rfl
@[simp] theorem State.enterWait_sound (s : State) (x : Reg) : (s.enterWait x).sound = s.sound := rfl
@[simp] theorem State.enterWait_keys (s : State) (x : Reg) : (s.enterWait x).keys = s.keys := rfl
@[simp] theorem State.enterWait_mode (s : State) (x : Reg) : (s.enterWait x).mode = .awaitingKey := rfl
@[simp] theorem State.enterWait_waitX (s : State) (x : Reg) : (s.enterWait x).waitX = x := rfl
@[simp] theorem State.enterWait_fault (s : State) (x : Reg) : (s.enterWait x).fault = s.fault := rfl
@[simp] theorem State.enterWait_tone (s : State) (x : Reg) : (s.enterWait x).tone = false := rfl
@[simp] theorem State.enterWait_unknown (s : State) (x : Reg) : (s.enterWait x).unknown = none := rfl
@[simp] theorem State.enterWait_rnd (s : State) (x : Reg) : (s.enterWait x).rnd = s.rnd := rfl
@[simp] theorem State.enterWait_rndDraws (s : State) (x : Reg) : (s.enterWait x).rndDraws = s.rndDraws := rfl
@[simp] theorem State.enterWait_cfg (s : State) (x : Reg) : (s.enterWait x).cfg = s.cfg := rfl
@[simp] theorem State.enterWait_reg (s : State) (x : Reg) (q : Reg) : (s.enterWait x).reg q = s.reg q := rfl
@[simp] theorem State.enterWait_byteAt (s : State) (x : Reg) (addr : Nat) : (s.enterWait x).byteAt addr = s.byteAt addr := rfl
@[simp] theorem State.enterWait_base (s : State) (x : Reg) : (s.enterWait x).base = s.base := rfl

/-! ### State.unknownStep -/

@[simp] theorem State.unknownStep_v (s : State) (op : Word) : (s.unknownStep op).v = s.v := rfl
@[simp] theorem State.unknownStep_i (s : State) (op : Word) : (s.unknownStep op).i = s.i := rfl
@[simp] theorem State.unknownStep_pc (s : State) (op : Word) : (s.unknownStep op).pc = s.pc + 2 := rfl
@[simp] theorem State.unknownStep_sp (s : State) (op : Word) : (s.unknownStep op).sp = s.sp := rfl
@[simp] theorem State.unknownStep_stack (s : State) (op : Word) : (s.unknownStep op).stack = s.stack := rfl
@[simp] theorem State.unknownStep_mem (s : State) (op : Word) : (s.unknownStep op).mem = s.mem := rfl
@[simp] theorem State.unknownStep_fb (s : State) (op : Word) : (s.unknownStep op).fb = s.fb := rfl
@[simp] theorem State.unknownStep_dirty (s : State) (op : Word) : (s.unknownStep op).dirty = s.dirty := rfl
@[simp] theorem State.unknownStep_delay (s : State) (op : Word) : (s.unknownStep op).delay = tick s.delay := rfl
@[simp] theorem State.unknownStep_sound (s : State) (op : Word) : (s.unknownStep op).sound = tick s.sound := rfl
@[simp] theorem State.unknownStep_keys (s : State) (op : Word) : (s.unknownStep op).keys = s.keys := rfl
@[simp] theorem State.unknownStep_mode (s : State) (op : Word) : (s.unknownStep op).mode = s.mode := rfl
@[simp] theorem State.unknownStep_waitX (s : State) (op : Word) : (s.unknownStep op).waitX = s.waitX := rfl
@[simp] theorem State.unknownStep_fault (s : State) (op : Word) : (s.unknownStep op).fault = s.fault := rfl
@[simp] theorem State.unknownStep_tone (s : State) (op : Word) : (s.unknownStep op).tone = decide (s.sound = 1) := rfl
@[simp] theorem State.unknownStep_unknown (s : State) (op : Word) : (s.unknownStep op).unknown = some { pc := s.pc, op := op } := rfl
@[simp] theorem State.unknownStep_rnd (s : State) (op : Word) : (s.unknownStep op).rnd = s.rnd := rfl
@[simp] theorem State.unknownStep_rndDraws (s : State) (op : Word) : (s.unknownStep op).rndDraws = s.rndDraws := rfl
@[simp] theorem State.unknownStep_cfg (s : State) (op : Word) : (s.unknownStep op).cfg = s.cfg := rfl
@[simp] theorem State.unknownStep_reg (s : State) (op : Word) (q : Reg) : (s.unknownStep op).reg q = s.reg q := rfl
@[simp] theorem State.unknownStep_byteAt (s : State) (op : Word) (addr : Nat) : (s.unknownStep op).byteAt addr = s.byteAt addr := rfl
@[simp] theorem State.unknownStep_base (s : State) (op : Word) : (s.unknownStep op).base = s.base := rfl

/-! ### State.idleStep -/

@[simp] theorem State.idleStep_v (s : State) : (s.idleStep).v = s.v := rfl
@[simp] theorem State.idleStep_i (s : State) : (s.idleStep).i = s.i := rfl
@[simp] theorem State.idleStep_pc (s : State) : (s.idleStep).pc = s.pc := rfl
@[simp] theorem State.idleStep_sp (s : State) : (s.idleStep).sp = s.sp := rfl
@[simp] theorem State.idleStep_stack (s : State) : (s.idleStep).stack = s.stack := rfl
@[simp] theorem State.idleStep_mem (s : State) : (s.idleStep).mem = s.mem := rfl
@[simp] theorem State.idleStep_fb (s : State) : (s.idleStep).fb = s.fb := rfl
@[simp] theorem State.idleStep_dirty (s : State) : (s.idleStep).dirty = s.dirty := rfl
@[simp] theorem State.idleStep_delay (s : State) : (s.idleStep).delay = s.delay := rfl
@[simp] theorem State.idleStep_sound (s : State) : (s.idleStep).sound = s.sound := rfl
@[simp] theorem State.idleStep_keys (s : State) : (s.idleStep).keys = s.keys := rfl
@[simp] theorem State.idleStep_mode (s : State) : (s.idleStep).mode = s.mode := rfl
@[simp] theorem State.idleStep_waitX (s : State) : (s.idleStep).waitX = s.waitX := rfl
@[simp] theorem State.idleStep_fault (s : State) : (s.idleStep).fault = s.fault := rfl
@[simp] theorem State.idleStep_tone (s : State) : (s.idleStep).tone = false := rfl
@[simp] theorem State.idleStep_unknown (s : State) : (s.idleStep).unknown = none := rfl
@[simp] theorem State.idleStep_rnd (s : State) : (s.idleStep).rnd = s.rnd := rfl
@[simp] theorem State.idleStep_rndDraws (s : State) : (s.idleStep).rndDraws = s.rndDraws := rfl
@[simp] theorem State.idleStep_cfg (s : State) : (s.idleStep).cfg = s.cfg := rfl
@[simp] theorem State.idleStep_reg (s : State) (q : Reg) : (s.idleStep).reg q = s.reg q := rfl
@[simp] theorem State.idleStep_byteAt (s : State) (addr : Nat) : (s.idleStep).byteAt addr = s.byteAt addr := rfl
@[simp] theorem State.idleStep_base (s : State) : (s.idleStep).base = s.base := rfl

/-! ### State.storeByte and State.storeBytes: only memory changes -/

@[simp] theorem State.storeByte_v (s : State) (a : Nat) (b : Byte) : (s.storeByte a b).v = s.v := by
  unfold State.storeByte; split <;> rfl
@[simp] theorem State.storeByte_i (s : State) (a : Nat) (b : Byte) : (s.storeByte a b).i = s.i := by
  unfold State.storeByte; split <;> rfl
@[simp] theorem State.storeByte_pc (s : State) (a : Nat) (b : Byte) : (s.storeByte a b).pc = s.pc := by
  unfold State.storeByte; split <;> rfl
@[simp] theorem State.storeByte_sp (s : State) (a : Nat) (b : Byte) : (s.storeByte a b).sp = s.sp := by
  unfold State.storeByte; split <;> rfl
@[simp] theorem State.storeByte_stack (s : State) (a : Nat) (b : Byte) : (s.storeByte a b).stack = s.stack := by
  unfold State.storeByte; split <;> rfl
@[simp] theorem State.storeByte_fb (s : State) (a : Nat) (b : Byte) : (s.storeByte a b).fb = s.fb := by
  unfold State.storeByte; split <;> rfl
@[simp] theorem State.storeByte_dirty (s : State) (a : Nat) (b : Byte) : (s.storeByte a b).dirty = s.dirty := by
  unfold State.storeByte; split <;> rfl
@[simp] theorem State.storeByte_delay (s : State) (a : Nat) (b : Byte) : (s.storeByte a b).delay = s.delay := by
  unfold State.storeByte; split <;> rfl
@[simp] theorem State.storeByte_sound (s : State) (a : Nat) (b : Byte) : (s.storeByte a b).sound = s.sound := by
  unfold State.storeByte; split <;> rfl
@[simp] theorem State.storeByte_keys (s : State) (a : Nat) (b : Byte) : (s.storeByte a b).keys = s.keys := by
  unfold State.storeByte; split <;> rfl
@[simp] theorem State.storeByte_mode (s : State) (a : Nat) (b : Byte) : (s.storeByte a b).mode = s.mode := by
  unfold State.storeByte; split <;> rfl
@[simp] theorem State.storeByte_waitX (s : State) (a : Nat) (b : Byte) : (s.storeByte a b).waitX = s.waitX := by
  unfold State.storeByte; split <;> rfl
@[simp] theorem State.storeByte_fault (s : State) (a : Nat) (b : Byte) : (s.storeByte a b).fault = s.fault := by
  unfold State.storeByte; split <;> rfl
@[simp] theorem State.storeByte_tone (s : State) (a : Nat) (b : Byte) : (s.storeByte a b).tone = s.tone := by
  unfold State.storeByte; split <;> rfl
@[simp] theorem State.storeByte_unknown (s : State) (a : Nat) (b : Byte) : (s.storeByte a b).unknown = s.unknown := by
  unfold State.storeByte; split <;> rfl
@[simp] theorem State.storeByte_rnd (s : State) (a : Nat) (b : Byte) : (s.storeByte a b).rnd = s.rnd := by
  unfold State.storeByte; split <;> rfl
@[simp] theorem State.storeByte_rndDraws (s : State) (a : Nat) (b : Byte) : (s.storeByte a b).rndDraws = s.rndDraws := by
  unfold State.storeByte; split <;> rfl
@[simp] theorem State.storeByte_cfg (s : State) (a : Nat) (b : Byte) : (s.storeByte a b).cfg = s.cfg := by
  unfold State.storeByte; split <;> rfl

@[simp] theorem State.storeBytes_v (s : State) (a : Nat) (bs : List Byte) : (s.storeBytes a bs).v = s.v := by
  induction bs generalizing s a with
  | nil => rfl
  | cons b bs ih => rw [State.storeBytes, ih, State.storeByte_v]
@[simp] theorem State.storeBytes_i (s : State) (a : Nat) (bs : List Byte) : (s.storeBytes a bs).i = s.i := by
  induction bs generalizing s a with
  | nil => rfl
  | cons b bs ih => rw [State.storeBytes, ih, State.storeByte_i]
@[simp] theorem State.storeBytes_pc (s : State) (a : Nat) (bs : List Byte) : (s.storeBytes a bs).pc = s.pc := by
  induction bs generalizing s a with
  | nil => rfl
  | cons b bs ih => rw [State.storeBytes, ih, State.storeByte_pc]
@[simp] theorem State.storeBytes_sp (s : State) (a : Nat) (bs : List Byte) : (s.storeBytes a bs).sp = s.sp := by
  induction bs generalizing s a with
  | nil => rfl
  | cons b bs ih => rw [State.storeBytes, ih, State.storeByte_sp]
@[simp] theorem State.storeBytes_stack (s : State) (a : Nat) (bs : List Byte) : (s.storeBytes a bs).stack = s.stack := by
  induction bs generalizing s a with
  | nil => rfl
  | cons b bs ih => rw [State.storeBytes, ih, State.storeByte_stack]
@[simp] theorem State.storeBytes_fb (s : State) (a : Nat) (bs : List Byte) : (s.storeBytes a bs).fb = s.fb := by
  induction bs generalizing s a with
  | nil => rfl
  | cons b bs ih => rw [State.storeBytes, ih, State.storeByte_fb]
@[simp] theorem State.storeBytes_dirty (s : State) (a : Nat) (bs : List Byte) : (s.storeBytes a bs).dirty = s.dirty := by
  induction bs generalizing s a with
  | nil => rfl
  | cons b bs ih => rw [State.storeBytes, ih, State.storeByte_dirty]
@[simp] theorem State.storeBytes_delay (s : State) (a : Nat) (bs : List Byte) : (s.storeBytes a bs).delay = s.delay := by
  induction bs generalizing s a with
  | nil => rfl
  | cons b bs ih => rw [State.storeBytes, ih, State.storeByte_delay]
@[simp] theorem State.storeBytes_sound (s : State) (a : Nat) (bs : List Byte) : (s.storeBytes a bs).sound = s.sound := by
  induction bs generalizing s a with
  | nil => rfl
  | cons b bs ih => rw [State.storeBytes, ih, State.storeByte_sound]
@[simp] theorem State.storeBytes_keys (s : State) (a : Nat) (bs : List Byte) : (s.storeBytes a bs).keys = s.keys := by
  induction bs generalizing s a with
  | nil => rfl
  | cons b bs ih => rw [State.storeBytes, ih, State.storeByte_keys]
@[simp] theorem State.storeBytes_mode (s : State) (a : Nat) (bs : List Byte) : (s.storeBytes a bs).mode = s.mode := by
  induction bs generalizing s a with
  | nil => rfl
  | cons b bs ih => rw [State.storeBytes, ih, State.storeByte_mode]
@[simp] theorem State.storeBytes_waitX (s : State) (a : Nat) (bs : List Byte) : (s.storeBytes a bs).waitX = s.waitX := by
  induction bs generalizing s a with
  | nil => rfl
  | cons b bs ih => rw [State.storeBytes, ih, State.storeByte_waitX]
@[simp] theorem State.storeBytes_fault (s : State) (a : Nat) (bs : List Byte) : (s.storeBytes a bs).fault = s.fault := by
  induction bs generalizing s a with
  | nil => rfl
  | cons b bs ih => rw [State.storeBytes, ih, State.storeByte_fault]
@[simp] theorem State.storeBytes_tone (s : State) (a : Nat) (bs : List Byte) : (s.storeBytes a bs).tone = s.tone := by
  induction bs generalizing s a with
  | nil => rfl
  | cons b bs ih => rw [State.storeBytes, ih, State.storeByte_tone]
@[simp] theorem State.storeBytes_unknown (s : State) (a : Nat) (bs : List Byte) : (s.storeBytes a bs).unknown = s.unknown := by
  induction bs generalizing s a with
  | nil => rfl
  | cons b bs ih => rw [State.storeBytes, ih, State.storeByte_unknown]
@[simp] theorem State.storeBytes_rnd (s : State) (a : Nat) (bs : List Byte) : (s.storeBytes a bs).rnd = s.rnd := by
  induction bs generalizing s a with
  | nil => rfl
  | cons b bs ih => rw [State.storeBytes, ih, State.storeByte_rnd]
@[simp] theorem State.storeBytes_rndDraws (s : State) (a : Nat) (bs : List Byte) : (s.storeBytes a bs).rndDraws = s.rndDraws := by
  induction bs generalizing s a with
  | nil => rfl
  | cons b bs ih => rw [State.storeBytes, ih, State.storeByte_rndDraws]
@[simp] theorem State.storeBytes_cfg (s : State) (a : Nat) (bs : List Byte) : (s.storeBytes a bs).cfg = s.cfg := by
  induction bs generalizing s a with
  | nil => rfl
  | cons b bs ih => rw [State.storeBytes, ih, State.storeByte_cfg]
@[simp] theorem State.storeBytes_reg (s : State) (a : Nat) (bs : List Byte) (q : Reg) :
    (s.storeBytes a bs).reg q = s.reg q := by simp only [State.reg, State.storeBytes_v]
@[simp] theorem State.storeBytes_base (s : State) (a : Nat) (bs : List Byte) : (s.storeBytes a bs).base = s.base := by
  simp only [State.base, State.storeBytes_i]

end Sys2Proof.Machine
end

