-- ==== Sys2Proof/Laws/Memory.lean ====
section
/-! SUPPORT. The laws of memory: a read after a write, and that every write keeps the canonical form. -/

namespace Sys2Proof.Machine

/-! ## Cells -/

theorem readCells_unlisted (font : Font) (m : Memory) (a : Nat) (h : ∀ c ∈ m, c.1 ≠ a) :
    readCells font m a = unlistedByte font a := by
  induction m with
  | nil => rfl
  | cons c m ih =>
    rw [readCells, if_neg (h c (by simp))]
    exact ih fun d hd => h d (by simp [hd])

theorem readCells_filter_other (font : Font) (m : Memory) {a b : Nat} (h : b ≠ a) :
    readCells font (m.filter (fun c => c.1 ≠ a)) b = readCells font m b := by
  induction m with
  | nil => rfl
  | cons c m ih =>
    by_cases hc : c.1 = a
    · have hb : c.1 ≠ b := by omega
      simpa [List.filter_cons, hc, readCells, Ne.symm h] using ih
    · by_cases hb : c.1 = b
      · simp [readCells, hb, h]
      · simpa [hc, readCells, hb] using ih

theorem readCells_insertCell_same (font : Font) (m : Memory) (a : Nat) (b : Byte) (h : ∀ c ∈ m, c.1 ≠ a) :
    readCells font (insertCell a b m) a = b := by
  induction m with
  | nil => simp [insertCell, readCells]
  | cons c m ih =>
    unfold insertCell
    split
    · simp [readCells]
    · rw [readCells, if_neg (h c (by simp))]
      exact ih fun d hd => h d (by simp [hd])

theorem readCells_insertCell_other (font : Font) (m : Memory) {a k : Nat} (b : Byte) (h : k ≠ a) :
    readCells font (insertCell a b m) k = readCells font m k := by
  induction m with
  | nil => simp [insertCell, readCells, Ne.symm h]
  | cons c m ih =>
    unfold insertCell
    split
    · simp [readCells, Ne.symm h]
    · rw [readCells, readCells, ih]

theorem readCells_writeCells_same (font : Font) (m : Memory) (a : Nat) (b : Byte) :
    readCells font (writeCells font m a b) a = b := by
  have h : ∀ c ∈ m.filter (fun c => c.1 ≠ a), c.1 ≠ a := by simp
  unfold writeCells
  split
  · rename_i hb
    rw [readCells_unlisted font _ a h, hb]
  · exact readCells_insertCell_same font _ a b h

theorem readCells_writeCells_other (font : Font) (m : Memory) {a k : Nat} (b : Byte) (h : k ≠ a) :
    readCells font (writeCells font m a b) k = readCells font m k := by
  unfold writeCells
  split
  · exact readCells_filter_other font m h
  · rw [readCells_insertCell_other font _ b h, readCells_filter_other font m h]

theorem mem_insertCell {a : Nat} {b : Byte} {m : Memory} {c : Host.Cell} :
    c ∈ insertCell a b m ↔ c = (a, b) ∨ c ∈ m := by
  induction m with
  | nil => simp [insertCell]
  | cons d m ih =>
    unfold insertCell
    split
    · simp
    · simp only [List.mem_cons, ih]
      tauto

theorem insertCell_rising {a : Nat} (b : Byte) {m : Memory} (hm : m.Pairwise (fun c d => c.1 < d.1))
    (ha : ∀ c ∈ m, c.1 ≠ a) : (insertCell a b m).Pairwise (fun c d => c.1 < d.1) := by
  induction m with
  | nil => simp [insertCell]
  | cons d m ih =>
    rw [List.pairwise_cons] at hm
    have hd := ha d (by simp)
    unfold insertCell
    split
    · rename_i hlt
      refine List.pairwise_cons.2 ⟨fun c hc => ?_, List.pairwise_cons.2 hm⟩
      rcases List.mem_cons.1 hc with rfl | hc
      · exact hlt
      · exact Nat.lt_trans hlt (hm.1 c hc)
    · refine List.pairwise_cons.2 ⟨fun c hc => ?_, ih hm.2 fun c hc => ha c (by simp [hc])⟩
      rcases mem_insertCell.1 hc with rfl | hc
      · show d.1 < a
        omega
      · exact hm.1 c hc

/-- A write keeps the canonical form. -/
theorem Memory.wf_writeCells {font : Font} {m : Memory} (h : Memory.wf font m) {a : Nat} (ha : a < memSize) (b : Byte) :
    Memory.wf font (writeCells font m a b) := by
  have hf : ∀ c ∈ m.filter (fun c => c.1 ≠ a), c.1 ≠ a := by simp
  have hs : (m.filter (fun c => c.1 ≠ a)).Pairwise (fun c d => c.1 < d.1) := h.1.filter _
  have hm : ∀ c ∈ m.filter (fun c => c.1 ≠ a), c.1 < memSize ∧ c.2 ≠ unlistedByte font c.1 :=
    fun c hc => h.2 c (List.mem_of_mem_filter hc)
  unfold writeCells
  split
  · exact ⟨hs, hm⟩
  · rename_i hb
    refine ⟨insertCell_rising b hs hf, fun c hc => ?_⟩
    rcases mem_insertCell.1 hc with rfl | hc
    · exact ⟨ha, hb⟩
    · exact hm c hc

/-! ## The state's bytes -/

theorem State.byteAt_storeByte_same (s : State) {a : Nat} (ha : a < memSize) (b : Byte) :
    (s.storeByte a b).byteAt a = b := by
  unfold State.storeByte
  rw [if_pos ha]
  exact readCells_writeCells_same _ _ _ _

theorem State.byteAt_storeByte_other (s : State) {a k : Nat} (b : Byte) (h : k ≠ a) :
    (s.storeByte a b).byteAt k = s.byteAt k := by
  unfold State.storeByte
  split
  · exact readCells_writeCells_other _ _ b h
  · rfl

/-- A store of several bytes leaves every address outside them alone. -/
theorem State.byteAt_storeBytes_outside (s : State) (a : Nat) (bs : List Byte) {k : Nat}
    (h : k < a ∨ a + bs.length ≤ k) : (s.storeBytes a bs).byteAt k = s.byteAt k := by
  induction bs generalizing s a with
  | nil => rfl
  | cons b bs ih =>
    simp only [List.length_cons] at h
    rw [State.storeBytes, ih _ _ (by omega), State.byteAt_storeByte_other s b (by omega)]

/-- A store of several bytes inside memory puts the k-th byte at the k-th address. -/
theorem State.byteAt_storeBytes_inside (s : State) (a : Nat) (bs : List Byte) (ha : a + bs.length ≤ memSize) {k : Nat}
    (hk : k < bs.length) : (s.storeBytes a bs).byteAt (a + k) = bs[k] := by
  induction bs generalizing s a k with
  | nil => simp at hk
  | cons b bs ih =>
    simp only [List.length_cons] at ha hk
    rw [State.storeBytes]
    cases k with
    | zero =>
      rw [State.byteAt_storeBytes_outside _ _ _ (by omega)]
      exact State.byteAt_storeByte_same s (by omega) b
    | succ k =>
      rw [show a + (k + 1) = a + 1 + k by omega, ih _ _ (by omega) (by omega)]
      rfl

theorem State.storeByte_wf (s : State) (h : Memory.wf s.cfg.font s.mem) (a : Nat) (b : Byte) :
    Memory.wf s.cfg.font (s.storeByte a b).mem := by
  unfold State.storeByte
  split
  · exact Memory.wf_writeCells h ‹_› b
  · exact h

/-- Every store keeps the canonical form, wherever it goes. -/
theorem State.storeBytes_wf (s : State) (h : Memory.wf s.cfg.font s.mem) (a : Nat) (bs : List Byte) :
    Memory.wf s.cfg.font (s.storeBytes a bs).mem := by
  induction bs generalizing s a with
  | nil => exact h
  | cons b bs ih =>
    rw [State.storeBytes]
    have := ih (s.storeByte a b) (by simpa using State.storeByte_wf s h a b) (a + 1)
    simpa using this

/-- The reset memory lists nothing, which is canonical. -/
theorem State.resetWith_memory_wf (c : Config) : Memory.wf (State.resetWith c).cfg.font (State.resetWith c).mem := by
  simp [State.resetWith, Memory.wf]

/-! ## Bound checks and blocks -/

/-- A block that fits raises nothing. -/
theorem blockOutside_eq_none_iff {a n : Nat} : blockOutside a n = none ↔ n = 0 ∨ a + n ≤ memSize := by
  unfold blockOutside
  split <;> simp_all

/-- A block that starts inside memory and does not fit is first outside at 0x1000. -/
theorem blockOutside_inside {a n k : Nat} (ha : a ≤ memSize) (h : blockOutside a n = some k) :
    k = memSize ∧ n ≠ 0 ∧ memSize < a + n := by
  unfold blockOutside at h
  split at h
  · cases h
  · simp only [Option.some.injEq] at h
    omega

theorem blockOutside_of_not_fits {a n : Nat} (ha : a ≤ memSize) (h : memSize < a + n) :
    blockOutside a n = some memSize := by
  unfold blockOutside
  rw [if_neg (by omega), Nat.max_eq_right ha]

theorem State.base_lt (s : State) : s.base < memSize := s.i.isLt

@[simp] theorem State.length_bytesAt (s : State) (a n : Nat) : (s.bytesAt a n).length = n := by simp [State.bytesAt]

theorem State.getElem_bytesAt (s : State) (a n k : Nat) (h : k < (s.bytesAt a n).length) :
    (s.bytesAt a n)[k] = s.byteAt (a + k) := by simp [State.bytesAt]

end Sys2Proof.Machine
end

