-- ==== Sys2Proof/Laws/Registers.lean ====
section
/-! SUPPORT. The laws of the register file and of the flag. -/

namespace Sys2Proof.Machine

@[simp] theorem State.reg_setReg_same (s : State) (x : Reg) (b : Byte) : (s.setReg x b).reg x = b := by
  simp [State.reg, State.setReg]

theorem State.reg_setReg_other (s : State) {x q : Reg} (b : Byte) (h : q ≠ x) : (s.setReg x b).reg q = s.reg q := by
  have : x.toNat ≠ q.toNat := fun e => h (BitVec.eq_of_toNat_eq e.symm)
  simp [State.reg, State.setReg, Vector.getElem_set_ne, this]

theorem State.reg_setReg (s : State) (x q : Reg) (b : Byte) :
    (s.setReg x b).reg q = if q = x then b else s.reg q := by
  split
  · subst_vars; simp
  · exact State.reg_setReg_other s b ‹_›

@[simp] theorem State.reg_setFlag_same (s : State) (b : Bool) : (s.setFlag b).reg 0xF = flagByte b :=
  State.reg_setReg_same s flagReg _

theorem State.reg_setFlag_other (s : State) {q : Reg} (b : Bool) (h : q ≠ 0xF) : (s.setFlag b).reg q = s.reg q :=
  State.reg_setReg_other s _ h

/-- The result is the value the destination keeps, VF included (R97). -/
@[simp] theorem State.reg_setFlagThenReg_result (s : State) (b : Bool) (x : Reg) (r : Byte) :
    (s.setFlagThenReg b x r).reg x = r := State.reg_setReg_same _ x r

/-- The flag stays where VF is not the destination (R97). -/
theorem State.reg_setFlagThenReg_flag (s : State) (b : Bool) {x : Reg} (r : Byte) (h : x ≠ 0xF) :
    (s.setFlagThenReg b x r).reg 0xF = flagByte b := by
  rw [State.setFlagThenReg, State.reg_setReg_other _ _ (Ne.symm h), State.reg_setFlag_same]

theorem State.reg_setFlagThenReg_other (s : State) (b : Bool) {x q : Reg} (r : Byte) (hx : q ≠ x) (hf : q ≠ 0xF) :
    (s.setFlagThenReg b x r).reg q = s.reg q := by
  rw [State.setFlagThenReg, State.reg_setReg_other _ _ hx, State.reg_setFlag_other _ _ hf]

/-- A block load reads V0..Vx from I on and leaves the registers above Vx alone (R115). -/
theorem State.reg_loadRegBlock (s : State) (x q : Reg) :
    (s.loadRegBlock x).reg q = if q.toNat ≤ x.toNat then s.byteAt (s.base + q.toNat) else s.reg q := by
  simp [State.reg, State.loadRegBlock]

@[simp] theorem State.length_regBlock (s : State) (x : Reg) : (s.regBlock x).length = x.toNat + 1 := by
  simp [State.regBlock, blockLen]

theorem State.getElem_regBlock (s : State) (x q : Reg) (h : q.toNat < (s.regBlock x).length) :
    (s.regBlock x)[q.toNat] = s.reg q := by simp [State.regBlock]

theorem flagByte_eq_one_iff {b : Bool} : flagByte b = 1 ↔ b = true := by cases b <;> decide

theorem flagByte_eq_ite (b : Bool) : flagByte b = if b = true then 1 else 0 := rfl

/-! ## Arithmetic -/

theorem sumByte_toNat (a b : Byte) : (sumByte a b).toNat = (a.toNat + b.toNat) % 256 := BitVec.toNat_add a b

theorem carry_iff {a b : Byte} : carry a b = true ↔ a.toNat + b.toNat > 255 := by simp [carry]

theorem diffByte_toNat (a b : Byte) : (diffByte a b).toNat = (a.toNat + 256 - b.toNat) % 256 := by
  have := a.isLt
  have := b.isLt
  rw [diffByte, BitVec.toNat_sub]
  omega

theorem noBorrow_iff {a b : Byte} : noBorrow a b = true ↔ b.toNat ≤ a.toNat := by simp [noBorrow]

theorem shrByte_toNat (a : Byte) : (shrByte a).toNat = a.toNat / 2 := by
  simp [shrByte, BitVec.toNat_ushiftRight, Nat.shiftRight_eq_div_pow]

theorem lowBit_iff {a : Byte} : lowBit a = true ↔ a.toNat % 2 = 1 := by
  simp [lowBit, BitVec.getLsbD, Nat.testBit_zero]

theorem shlByte_toNat (a : Byte) : (shlByte a).toNat = (a.toNat * 2) % 256 := by
  simp [shlByte, BitVec.toNat_shiftLeft, Nat.shiftLeft_eq]

theorem highBit_iff {a : Byte} : highBit a = true ↔ 128 ≤ a.toNat := by
  have := a.isLt
  simp only [highBit, BitVec.getLsbD, Nat.testBit_eq_decide_div_mod_eq, decide_eq_true_eq]
  omega

theorem sumIndex_toNat (i : Addr) (b : Byte) : (sumIndex i b).toNat = (i.toNat + b.toNat) % 0x1000 := by
  have := b.isLt
  simp [sumIndex, BitVec.toNat_add, BitVec.toNat_setWidth]

theorem indexOverflow_iff {i : Addr} {b : Byte} : indexOverflow i b = true ↔ i.toNat + b.toNat > 0xFFF := by
  simp [indexOverflow]

@[simp] theorem tick_toNat (t : Byte) : (tick t).toNat = t.toNat - 1 := by
  unfold tick
  split
  · subst_vars; rfl
  · rename_i h
    have : t.toNat ≠ 0 := fun e => h (BitVec.eq_of_toNat_eq (by simpa using e))
    have := t.isLt
    have h1 : (1 : Byte).toNat = 1 := rfl
    rw [BitVec.toNat_sub, h1]
    omega

end Sys2Proof.Machine
end

