-- ==== Sys2Proof/Laws/Display.lean ====
section
/-! SUPPORT. The laws of the framebuffer: what inverting cells does to a cell, and which cells a sprite has. -/

namespace Sys2Proof.Machine

theorem cellAt_blankDisplay (k : Nat) : cellAt blankDisplay k = false := by
  simp [cellAt, blankDisplay]

theorem cellAt_toggleCell_same (fb : Framebuffer) {k : Nat} (h : k < displayCells) :
    cellAt (toggleCell fb k) k = !cellAt fb k := by
  have hr : k / 64 < 32 := by unfold displayCells at h; omega
  have hc : k % 64 < 64 := Nat.mod_lt _ (by decide)
  simp [cellAt, toggleCell, hr, hc]

theorem cellAt_toggleCell_other (fb : Framebuffer) {k j : Nat} (h : j ≠ k) :
    cellAt (toggleCell fb k) j = cellAt fb j := by
  unfold toggleCell
  split
  · rename_i hk
    unfold cellAt
    split
    · rename_i hj
      by_cases hr : k / 64 = j / 64
      · have hm : k % 64 ≠ j % 64 := by omega
        simp [hr, BitVec.getLsbD_twoPow, hm]
      · simp [Vector.getElem_set_ne _ _ hr]
    · rfl
  · rfl

/-- Inverting distinct cells inverts exactly those. -/
theorem cellAt_toggleCells (fb : Framebuffer) {cells : List Nat} (hd : cells.Nodup)
    (hb : ∀ k ∈ cells, k < displayCells) (k : Nat) :
    cellAt (toggleCells fb cells) k = (cellAt fb k ^^ decide (k ∈ cells)) := by
  unfold toggleCells
  induction cells generalizing fb with
  | nil => simp
  | cons c cells ih =>
    rw [List.nodup_cons] at hd
    rw [List.foldl_cons, ih (toggleCell fb c) hd.2 fun k hk => hb k (by simp [hk])]
    by_cases hk : k = c
    · subst hk
      rw [cellAt_toggleCell_same fb (hb k (by simp))]
      simp [hd.1]
    · rw [cellAt_toggleCell_other fb hk]
      simp [hk]

/-! ## Sprites -/

/-- A sprite's pixels are those of its rows and columns. -/
theorem mem_spritePixels {vx vy : Byte} {rows : List Byte} {p : Nat × Bool} :
    p ∈ spritePixels vx vy rows ↔
      ∃ r c, ∃ h : r < rows.length, c < 8 ∧ p = (spriteCell vx vy r c, rows[r].getLsbD (7 - c)) := by
  simp only [spritePixels, List.mem_flatMap, List.mem_map, List.mem_range, List.mem_zipIdx_iff_getElem?,
    List.getElem?_eq_some_iff]
  constructor
  · rintro ⟨⟨b, r⟩, ⟨h, hb⟩, c, hc, rfl⟩
    exact ⟨r, c, h, hc, by rw [← hb]⟩
  · rintro ⟨r, c, h, hc, rfl⟩
    exact ⟨(rows[r], r), ⟨h, rfl⟩, c, hc, rfl⟩

theorem mem_setCells {pixels : List (Nat × Bool)} {k : Nat} : k ∈ setCells pixels ↔ (k, true) ∈ pixels := by
  simp [setCells]

/-- Two pixels of one sprite lie in different cells: its columns are 8 and a row is 64 cells (R118). -/
theorem spriteCell_injective {vx vy : Byte} {r c r' c' : Nat} (hc : c < 8) (hc' : c' < 8)
    (h : spriteCell vx vy r c = spriteCell vx vy r' c') : r = r' ∧ c = c' := by
  unfold spriteCell at h
  omega

theorem spritePixels_cells_nodup (vx vy : Byte) (rows : List Byte) :
    ((spritePixels vx vy rows).map (fun p => p.1)).Nodup := by
  simp only [spritePixels, List.map_flatMap, List.map_map]
  rw [List.nodup_flatMap]
  refine ⟨fun p _ => ?_, ?_⟩
  · refine List.Nodup.map_on ?_ List.nodup_range
    intro c hc c' hc' h
    simp only [Function.comp_apply] at h
    exact (spriteCell_injective (List.mem_range.1 hc) (List.mem_range.1 hc') h).2
  · have hz : (rows.zipIdx).Pairwise (fun p q => p.2 < q.2) := by
      have := List.pairwise_lt_range' (s := 0) (n := rows.length) (step := 1)
      rw [← List.zipIdx_map_snd 0 rows, List.pairwise_map] at this
      exact this
    refine hz.imp ?_
    intro p q hpq k hp hq
    simp only [List.mem_map, List.mem_range, Function.comp_apply] at hp hq
    obtain ⟨c, hc, rfl⟩ := hp
    obtain ⟨c', hc', h⟩ := hq
    have := (spriteCell_injective hc' hc h).1
    omega

theorem setCells_nodup {vx vy : Byte} {rows : List Byte} : (setCells (spritePixels vx vy rows)).Nodup :=
  List.Nodup.sublist (List.filter_sublist.map _) (spritePixels_cells_nodup vx vy rows)

theorem lowestBadCell_eq_none_iff {cells : List Nat} : lowestBadCell cells = none ↔ ∀ k ∈ cells, k < displayCells := by
  simp [lowestBadCell, List.min?_eq_none_iff, List.filter_eq_nil_iff]

theorem lowestBadCell_eq_some_iff {cells : List Nat} {k : Nat} :
    lowestBadCell cells = some k ↔
      (k ∈ cells ∧ displayCells ≤ k) ∧ ∀ j ∈ cells, displayCells ≤ j → k ≤ j := by
  simp only [lowestBadCell, List.min?_eq_some_iff, List.mem_filter, decide_eq_true_eq, and_imp]

theorem collision_iff {fb : Framebuffer} {cells : List Nat} :
    collision fb cells = true ↔ ∃ k ∈ cells, cellAt fb k = true := by simp [collision]

end Sys2Proof.Machine
end

