-- ==== Sys2Proof/Laws/Cycle.lean ====
section
/-! SUPPORT. What each way a step ends does, said once in the words of Safety.lean, and the inversions of `step` and
`exec`: every later proof cites these and unfolds neither. -/

namespace Sys2Proof.Machine

/-! ## The ends of a step -/

theorem byte_eq_one_iff {b : Byte} : b = 1#8 ↔ b.toNat = 1 :=
  ⟨fun h => by rw [h]; rfl, fun h => BitVec.eq_of_toNat_eq h⟩

/-- The timer phase, as R130 and R131 say it. -/
theorem State.timerPhaseRan (s : State) : TimerPhaseRan s.delay s.sound s.timerPhase := by
  simp [TimerPhaseRan, decremented, byte_eq_one_iff]

/-- Completing on writes `w` that left the control state and the inputs alone. -/
theorem State.complete_completedOn {s w : State} (next : Word) (hm : w.mode = s.mode) (hx : w.waitX = s.waitX)
    (hf : w.fault = s.fault) (hk : w.keys = s.keys) (hc : w.cfg = s.cfg) :
    CompletedOn w.delay w.sound s (w.complete next) := by
  refine ⟨?_, rfl, hm, hx, hf, hk, hc⟩
  simp [TimerPhaseRan, decremented, byte_eq_one_iff]

/-- Completing on writes `w` that also left the timers and the random input alone. -/
theorem State.complete_completed {s w : State} (next : Word) (hm : w.mode = s.mode) (hx : w.waitX = s.waitX)
    (hf : w.fault = s.fault) (hk : w.keys = s.keys) (hc : w.cfg = s.cfg) (hd : w.delay = s.delay)
    (hs : w.sound = s.sound) (hr : w.rnd = s.rnd) (hn : w.rndDraws = s.rndDraws) :
    Completed s (w.complete next) := by
  refine ⟨?_, hr, hn⟩
  rw [← hd, ← hs]
  exact State.complete_completedOn next hm hx hf hk hc

/-- Completing changes no register, index, stack entry, byte or cell beyond the writes `w`. -/
theorem State.complete_keepsAllBut {s w : State} {changed : List Reg} (next : Word) (h : KeepsAllBut changed s w) :
    KeepsAllBut changed s (w.complete next) := h

/-- Writing one register keeps all but it. -/
theorem State.setReg_keepsAllBut (s : State) (x : Reg) (b : Byte) : KeepsAllBut [x] s (s.setReg x b) :=
  ⟨fun _ hr => State.reg_setReg_other s b (by simpa using hr), rfl, ⟨rfl, rfl⟩, fun _ => rfl, rfl, rfl⟩

/-- Writing a flag and a result keeps all but VF and the destination. -/
theorem State.setFlagThenReg_keepsAllBut (s : State) (f : Bool) (x : Reg) (r : Byte) :
    KeepsAllBut [x, 0xF] s (s.setFlagThenReg f x r) :=
  ⟨fun q hq => by
    simp only [List.mem_cons, List.not_mem_nil, or_false, not_or] at hq
    exact State.reg_setFlagThenReg_other s f r hq.1 hq.2, rfl, ⟨rfl, rfl⟩, fun _ => rfl, rfl, rfl⟩

/-- Taking OutOfRangeAccess is precise (R83); the recorded value fits its 16 bits. -/
theorem State.takeFault_faultsWith (s : State) (kind : FaultKind) {addr : Nat} (h : addr < 65536) :
    FaultsWith kind addr s (s.takeFault kind addr) := by
  refine ⟨rfl, ⟨_, rfl, rfl, rfl, ?_⟩, rfl, rfl, rfl, rfl, ⟨fun _ _ => rfl, rfl, ⟨rfl, rfl⟩, fun _ => rfl, rfl, rfl⟩,
    ⟨rfl, rfl⟩, ⟨rfl, rfl⟩, rfl, rfl⟩
  simpa using Nat.mod_eq_of_lt h

theorem State.idleStep_nothingHappens (s : State) : NothingHappens s s.idleStep := rfl

/-! ## Keys -/

theorem State.lowestKey_eq_none_iff {s : State} : s.lowestKey = none ↔ ∀ k : Fin 16, s.keys[k] = false := by
  simp [State.lowestKey, State.keyPressed, List.find?_eq_none]

/-- The lowest pressed key is pressed and none below it is (R133). -/
theorem State.lowestKey_eq_some_iff {s : State} {k : Fin 16} :
    s.lowestKey = some k ↔ s.keys[k] = true ∧ ∀ j : Fin 16, j < k → s.keys[j] = false := by
  have hmem : ∀ j : Fin 16, j ∈ List.finRange 16 := List.mem_finRange
  have hord : (List.finRange 16).Pairwise (· < ·) := List.pairwise_lt_finRange 16
  unfold State.lowestKey
  generalize List.finRange 16 = l at hmem hord
  constructor
  · intro h
    obtain ⟨hk, pre, suf, rfl, hpre⟩ := List.find?_eq_some_iff_append.1 h
    refine ⟨hk, fun j hj => ?_⟩
    rcases List.mem_append.1 (hmem j) with hjp | hjs
    · simpa [State.keyPressed] using hpre j hjp
    · rw [List.pairwise_append] at hord
      rcases List.mem_cons.1 hjs with rfl | hjs
      · exact absurd hj (lt_irrefl _)
      · exact absurd ((List.pairwise_cons.1 hord.2.1).1 j hjs) (not_lt.2 hj.le)
  · rintro ⟨hk, hlow⟩
    cases h : l.find? s.keyPressed with
    | none => exact absurd hk (by simpa [State.keyPressed] using List.find?_eq_none.1 h k (hmem k))
    | some j =>
      obtain ⟨hj, pre, suf, rfl, hpre⟩ := List.find?_eq_some_iff_append.1 h
      rcases List.mem_append.1 (hmem k) with hkp | hks
      · exact absurd hk (by simpa [State.keyPressed] using hpre k hkp)
      · rw [List.pairwise_append] at hord
        rcases List.mem_cons.1 hks with rfl | hks
        · rfl
        · have := hlow j ((List.pairwise_cons.1 hord.2.1).1 k hks)
          simp [State.keyPressed, this] at hj

theorem keyByte_toNat (k : Fin 16) : (keyByte k).toNat = k.val := by
  have := k.isLt
  simp only [keyByte, BitVec.toNat_ofNat]
  omega

theorem State.keyFlag_of_lt (s : State) {b : Byte} (k : Fin 16) (h : b.toNat = k.val) :
    s.keyFlag b = some s.keys[k] := by
  have hb : b.toNat < 16 := by omega
  rw [State.keyFlag, dif_pos hb]
  simp [State.keyPressed, h]

theorem State.keyFlag_of_gt (s : State) {b : Byte} (h : b.toNat > 15) : s.keyFlag b = none := by
  rw [State.keyFlag, dif_neg (by omega)]

/-! ## Writes at I -/

/-- When a write of `n` bytes at I may happen (R48, R50). -/
theorem State.writeFault_eq_none_iff {s : State} {n : Nat} (hn : n ≠ 0) :
    s.writeFault n = none ↔ s.i.toNat + n ≤ memSize ∧ LowWriteAllowed s := by
  have hp : s.cfg.lowWritePolicy = .write ↔ s.cfg.lowWritePolicy ≠ .fault := by
    cases s.cfg.lowWritePolicy <;> simp
  unfold State.writeFault LowWriteAllowed
  rw [hp]
  split
  · rename_i a h
    have := blockOutside_inside (Nat.le_of_lt s.base_lt) h
    simp only [State.base] at this
    simp; omega
  · rename_i h
    have := blockOutside_eq_none_iff.1 h
    simp only [State.base] at this
    have hfit : s.i.toNat + n ≤ memSize := by omega
    by_cases hf : s.cfg.lowWritePolicy = .fault <;> simp [hf, hfit, State.base, programBase]

theorem State.writeFault_outside {s : State} {n : Nat} (h : memSize < s.i.toNat + n) : s.writeFault n = some memSize := by
  rw [State.writeFault, blockOutside_of_not_fits (Nat.le_of_lt s.base_lt) h]

theorem State.writeFault_low {s : State} {n : Nat} (h : s.i.toNat + n ≤ memSize) (hl : ¬ LowWriteAllowed s) :
    s.writeFault n = some s.i.toNat := by
  unfold LowWriteAllowed at hl
  rw [not_or] at hl
  have hf : s.cfg.lowWritePolicy = .fault := by
    cases hp : s.cfg.lowWritePolicy
    · exact absurd hp hl.1
    · rfl
  have hb : s.base < programBase := by simpa [State.base, programBase] using hl.2
  have hn : blockOutside s.base n = none := blockOutside_eq_none_iff.2 (.inr h)
  rw [State.writeFault, hn]
  exact if_pos ⟨hf, hb⟩

/-! ## Fetch -/

theorem State.fetchWord_of_fits {s : State} (h : s.pc.toNat + 1 ≤ 0xFFF) :
    s.fetchWord = .ok (s.byteAt s.pc.toNat ++ s.byteAt (s.pc.toNat + 1)) := by
  have : blockOutside s.pc.toNat 2 = none := blockOutside_eq_none_iff.2 (.inr (by simp [memSize]; omega))
  rw [State.fetchWord, this]
  rfl

theorem State.fetchWord_of_not_fits {s : State} (h : s.pc.toNat + 1 > 0xFFF) :
    s.fetchWord = .error (if s.pc.toNat > 0xFFF then s.pc.toNat else s.pc.toNat + 1) := by
  have : blockOutside s.pc.toNat 2 = some (max s.pc.toNat memSize) := by
    rw [blockOutside, if_neg (by simp [memSize]; omega)]
  rw [State.fetchWord, this]
  simp only [Except.error.injEq, memSize]
  split <;> omega

/-- A fetch that succeeds lies in memory and reads the word at PC. -/
theorem State.fetchWord_ok {s : State} {op : Word} (h : s.fetchWord = .ok op) :
    s.pc.toNat + 1 ≤ 0xFFF ∧ op = s.byteAt s.pc.toNat ++ s.byteAt (s.pc.toNat + 1) := by
  by_cases hp : s.pc.toNat + 1 ≤ 0xFFF
  · rw [State.fetchWord_of_fits hp] at h
    exact ⟨hp, by simpa using h.symm⟩
  · rw [State.fetchWord_of_not_fits (by omega)] at h
    cases h

/-- `withFetchWord` places the word that the next step fetches. -/
theorem State.withFetchWord_fetches (s : State) (w : Nat) (h : s.pc.toNat + 1 ≤ 0xFFF) :
    (s.withFetchWord 16 w).fetchWord = .ok (BitVec.ofNat 16 w) := by
  have hlen : (tableWordBytes 16 w).length = 2 := rfl
  have hfit : s.pc.toNat + (tableWordBytes 16 w).length ≤ memSize := by rw [hlen]; simp only [memSize]; omega
  have h0 := s.byteAt_storeBytes_inside _ _ hfit (k := 0) (by omega)
  have h1 := s.byteAt_storeBytes_inside _ _ hfit (k := 1) (by omega)
  have hpc : (s.withFetchWord 16 w).pc = s.pc := by simp [State.withFetchWord, State.placeAtPc]
  have hb : ∀ a, (s.withFetchWord 16 w).byteAt a = (s.storeBytes s.pc.toNat (tableWordBytes 16 w)).byteAt a := fun _ => rfl
  rw [State.fetchWord_of_fits (by rw [hpc]; exact h), hpc, hb, hb, h1]
  simp only [Nat.add_zero] at h0
  rw [h0]
  congr 1
  refine BitVec.eq_of_getLsbD_eq fun k hk => ?_
  simp only [tableWordBytes, BitVec.getLsbD_append, List.getElem_cons_zero, List.getElem_cons_succ]
  have : BitVec.ofNat 16 (w % 2 ^ 16) = BitVec.ofNat 16 w := BitVec.eq_of_toNat_eq (by simp)
  rw [this]
  by_cases hk8 : k < 8
  · simp [hk8]
  · simp [hk8, show 8 + (k - 8) = k by omega, show k - 8 < 8 by omega]

/-! ## Inversions -/

/-- What one step can be. -/
theorem step_cases {s t : State} (h : step s = .next t) :
    (s.mode = .faulted ∧ t = s.idleStep) ∨ (s.mode = .awaitingKey ∧ t = s.awaitingStep) ∨
    (s.mode = .running ∧ ∃ a, s.fetchWord = .error a ∧ t = s.takeFault .fetch a) ∨
    (s.mode = .running ∧ ∃ op e, s.fetchWord = .ok op ∧ decodeWord op = .error e ∧ t = s.unknownStep op) ∨
    (s.mode = .running ∧ ∃ op i, s.fetchWord = .ok op ∧ decodeWord op = .ok i ∧ exec i s = .next t) := by
  unfold step at h
  split at h
  · cases h; exact .inl ⟨‹_›, rfl⟩
  · cases h; exact .inr (.inl ⟨‹_›, rfl⟩)
  · split at h
    · cases h; exact .inr (.inr (.inl ⟨‹_›, _, ‹_›, rfl⟩))
    · split at h
      · exact .inr (.inr (.inr (.inr ⟨‹_›, _, _, ‹_›, ‹_›, h⟩)))
      · cases h; exact .inr (.inr (.inr (.inl ⟨‹_›, _, _, ‹_›, ‹_›, rfl⟩)))

/-- The waiting step: idle, or the lowest key completes the pending Fx0A. -/
theorem State.awaitingStep_cases (s : State) :
    (s.lowestKey = none ∧ s.awaitingStep = s.idleStep) ∨
    ∃ k, s.lowestKey = some k ∧
      s.awaitingStep = { (s.setReg s.waitX (keyByte k)).advance with mode := .running } := by
  unfold State.awaitingStep
  split
  · exact .inl ⟨‹_›, rfl⟩
  · exact .inr ⟨_, ‹_›, rfl⟩

/-- Every instruction ends its step in one of three ways: it completes on some writes, it takes a fault, or it enters the
key wait. -/
theorem exec_cases (i : Instr) (s : State) :
    (∃ w next, exec i s = .next (State.complete w next)) ∨ (∃ kind a, exec i s = .next (s.takeFault kind a)) ∨
    (∃ x, exec i s = .next (s.enterWait x)) := by
  have c : ∀ (w : State) next, exec i s = .next (w.complete next) →
      (∃ w next, exec i s = .next (State.complete w next)) ∨ (∃ kind a, exec i s = .next (s.takeFault kind a)) ∨
      (∃ x, exec i s = .next (s.enterWait x)) := fun w next h => .inl ⟨w, next, h⟩
  cases i
  case ret =>
    simp only [exec, execRet]
    split
    · exact .inr (.inl ⟨_, _, rfl⟩)
    · exact .inl ⟨_, _, rfl⟩
  case call nnn =>
    simp only [exec, execCall]
    split
    · exact .inl ⟨_, _, rfl⟩
    · exact .inr (.inl ⟨_, _, rfl⟩)
  case drw x y n =>
    simp only [exec, execDrw]
    split
    · exact .inr (.inl ⟨_, _, rfl⟩)
    · split
      · exact .inr (.inl ⟨_, _, rfl⟩)
      · exact .inl ⟨_, _, rfl⟩
  case skp x =>
    simp only [exec, execSkp]
    split
    · exact .inl ⟨_, _, rfl⟩
    · exact .inr (.inl ⟨_, _, rfl⟩)
  case sknp x =>
    simp only [exec, execSknp]
    split
    · exact .inl ⟨_, _, rfl⟩
    · exact .inr (.inl ⟨_, _, rfl⟩)
  case ldVxK x =>
    simp only [exec, execLdVxK]
    split
    · exact .inl ⟨_, _, rfl⟩
    · exact .inr (.inr ⟨_, rfl⟩)
  case ldB x =>
    simp only [exec, execLdB]
    split
    · exact .inr (.inl ⟨_, _, rfl⟩)
    · exact .inl ⟨_, _, rfl⟩
  case ldMemVx x =>
    simp only [exec, execLdMemVx]
    split
    · exact .inr (.inl ⟨_, _, rfl⟩)
    · exact .inl ⟨_, _, rfl⟩
  case ldVxMem x =>
    simp only [exec, execLdVxMem]
    split
    · exact .inr (.inl ⟨_, _, rfl⟩)
    · exact .inl ⟨_, _, rfl⟩
  all_goals exact c _ _ rfl

end Sys2Proof.Machine
end

