-- ==== Sys2Proof/Laws/Decode.lean ====
section
/-! SUPPORT. The fields of a word written by its format: each field reads back as it was put in. With them a word's
decoding is read off by simp. -/

namespace Sys2Proof

@[simp] theorem fieldTop_wordAddr (top : Nibble) (nnn : Addr) : fieldTop (wordAddr top nnn) = top := by
  refine BitVec.eq_of_getLsbD_eq fun k hk => ?_
  simp only [fieldTop, wordAddr, BitVec.getLsbD_extractLsb', BitVec.getLsbD_append, hk, decide_true, Bool.true_and]
  interval_cases k <;> rfl

@[simp] theorem fieldNNN_wordAddr (top : Nibble) (nnn : Addr) : fieldNNN (wordAddr top nnn) = nnn := by
  refine BitVec.eq_of_getLsbD_eq fun k hk => ?_
  simp only [fieldNNN, wordAddr, BitVec.getLsbD_extractLsb', BitVec.getLsbD_append, hk, decide_true, Bool.true_and]
  interval_cases k <;> rfl

@[simp] theorem fieldTop_wordXNN (top : Nibble) (x : Reg) (nn : Byte) : fieldTop (wordXNN top x nn) = top := by
  refine BitVec.eq_of_getLsbD_eq fun k hk => ?_
  simp only [fieldTop, wordXNN, BitVec.getLsbD_extractLsb', BitVec.getLsbD_append, hk, decide_true, Bool.true_and]
  interval_cases k <;> rfl

@[simp] theorem fieldX_wordXNN (top : Nibble) (x : Reg) (nn : Byte) : fieldX (wordXNN top x nn) = x := by
  refine BitVec.eq_of_getLsbD_eq fun k hk => ?_
  simp only [fieldX, wordXNN, BitVec.getLsbD_extractLsb', BitVec.getLsbD_append, hk, decide_true, Bool.true_and]
  interval_cases k <;> rfl

@[simp] theorem fieldNN_wordXNN (top : Nibble) (x : Reg) (nn : Byte) : fieldNN (wordXNN top x nn) = nn := by
  refine BitVec.eq_of_getLsbD_eq fun k hk => ?_
  simp only [fieldNN, wordXNN, BitVec.getLsbD_extractLsb', BitVec.getLsbD_append, hk, decide_true, Bool.true_and]
  interval_cases k <;> rfl

@[simp] theorem fieldTop_wordXYN (top : Nibble) (x y : Reg) (n : Nibble) : fieldTop (wordXYN top x y n) = top := by
  refine BitVec.eq_of_getLsbD_eq fun k hk => ?_
  simp only [fieldTop, wordXYN, BitVec.getLsbD_extractLsb', BitVec.getLsbD_append, hk, decide_true, Bool.true_and]
  interval_cases k <;> rfl

@[simp] theorem fieldX_wordXYN (top : Nibble) (x y : Reg) (n : Nibble) : fieldX (wordXYN top x y n) = x := by
  refine BitVec.eq_of_getLsbD_eq fun k hk => ?_
  simp only [fieldX, wordXYN, BitVec.getLsbD_extractLsb', BitVec.getLsbD_append, hk, decide_true, Bool.true_and]
  interval_cases k <;> rfl

@[simp] theorem fieldY_wordXYN (top : Nibble) (x y : Reg) (n : Nibble) : fieldY (wordXYN top x y n) = y := by
  refine BitVec.eq_of_getLsbD_eq fun k hk => ?_
  simp only [fieldY, wordXYN, BitVec.getLsbD_extractLsb', BitVec.getLsbD_append, hk, decide_true, Bool.true_and]
  interval_cases k <;> rfl

@[simp] theorem fieldN_wordXYN (top : Nibble) (x y : Reg) (n : Nibble) : fieldN (wordXYN top x y n) = n := by
  refine BitVec.eq_of_getLsbD_eq fun k hk => ?_
  simp only [fieldN, wordXYN, BitVec.getLsbD_extractLsb', BitVec.getLsbD_append, hk, decide_true, Bool.true_and]
  interval_cases k <;> rfl

end Sys2Proof
end

