-- ==== Sys2Proof/Laws/PerInstr.lean ====
section
/-! SUPPORT. The statement made once per instruction: its word lies in its row of spec/opcode_table.json, for every value
of its fields. -/

namespace Sys2Proof.Laws

/-- The (mask, match) of an instruction's row of spec/opcode_table.json. -/
def tableRow : Instr → Word × Word
  | .cls => (0xFFFF#16, 0x00E0#16)
  | .ret => (0xFFFF#16, 0x00EE#16)
  | .jp _ => (0xF000#16, 0x1000#16)
  | .call _ => (0xF000#16, 0x2000#16)
  | .seImm _ _ => (0xF000#16, 0x3000#16)
  | .sneImm _ _ => (0xF000#16, 0x4000#16)
  | .seReg _ _ => (0xF00F#16, 0x5000#16)
  | .ldImm _ _ => (0xF000#16, 0x6000#16)
  | .addImm _ _ => (0xF000#16, 0x7000#16)
  | .ldReg _ _ => (0xF00F#16, 0x8000#16)
  | .orReg _ _ => (0xF00F#16, 0x8001#16)
  | .andReg _ _ => (0xF00F#16, 0x8002#16)
  | .xorReg _ _ => (0xF00F#16, 0x8003#16)
  | .addReg _ _ => (0xF00F#16, 0x8004#16)
  | .subReg _ _ => (0xF00F#16, 0x8005#16)
  | .shr _ _ => (0xF00F#16, 0x8006#16)
  | .subnReg _ _ => (0xF00F#16, 0x8007#16)
  | .shl _ _ => (0xF00F#16, 0x800E#16)
  | .sneReg _ _ => (0xF00F#16, 0x9000#16)
  | .ldI _ => (0xF000#16, 0xA000#16)
  | .jpV0 _ => (0xF000#16, 0xB000#16)
  | .rnd _ _ => (0xF000#16, 0xC000#16)
  | .drw _ _ _ => (0xF000#16, 0xD000#16)
  | .skp _ => (0xF0FF#16, 0xE09E#16)
  | .sknp _ => (0xF0FF#16, 0xE0A1#16)
  | .ldVxDt _ => (0xF0FF#16, 0xF007#16)
  | .ldVxK _ => (0xF0FF#16, 0xF00A#16)
  | .ldDtVx _ => (0xF0FF#16, 0xF015#16)
  | .ldStVx _ => (0xF0FF#16, 0xF018#16)
  | .addI _ => (0xF0FF#16, 0xF01E#16)
  | .ldF _ => (0xF0FF#16, 0xF029#16)
  | .ldB _ => (0xF0FF#16, 0xF033#16)
  | .ldMemVx _ => (0xF0FF#16, 0xF055#16)
  | .ldVxMem _ => (0xF0FF#16, 0xF065#16)

theorem wordAddr_masked (top : Nibble) (nnn : Addr) : wordAddr top nnn &&& 0xF000#16 = wordAddr top 0 := by
  refine BitVec.eq_of_getLsbD_eq fun k hk => ?_
  simp only [wordAddr, BitVec.getLsbD_and, BitVec.getLsbD_append]
  interval_cases k <;> simp

theorem wordXNN_masked (top : Nibble) (x : Reg) (nn : Byte) : wordXNN top x nn &&& 0xF000#16 = wordXNN top 0 0 := by
  refine BitVec.eq_of_getLsbD_eq fun k hk => ?_
  simp only [wordXNN, BitVec.getLsbD_and, BitVec.getLsbD_append]
  interval_cases k <;> simp

theorem wordXFF_masked (top : Nibble) (x : Reg) (nn : Byte) : wordXNN top x nn &&& 0xF0FF#16 = wordXNN top 0 nn := by
  refine BitVec.eq_of_getLsbD_eq fun k hk => ?_
  simp only [wordXNN, BitVec.getLsbD_and, BitVec.getLsbD_append]
  interval_cases k <;> simp

theorem wordXYF_masked (top : Nibble) (x y : Reg) (n : Nibble) :
    wordXYN top x y n &&& 0xF00F#16 = wordXYN top 0 0 n := by
  refine BitVec.eq_of_getLsbD_eq fun k hk => ?_
  simp only [wordXYN, BitVec.getLsbD_and, BitVec.getLsbD_append]
  interval_cases k <;> simp

theorem wordXYN_masked (top : Nibble) (x y : Reg) (n : Nibble) :
    wordXYN top x y n &&& 0xF000#16 = wordXYN top 0 0 0 := by
  refine BitVec.eq_of_getLsbD_eq fun k hk => ?_
  simp only [wordXYN, BitVec.getLsbD_and, BitVec.getLsbD_append]
  interval_cases k <;> simp

/-- The instruction's word, masked by its row's mask, is its row's match. -/
def TableRow.Statement (i : Instr) : Prop := encode i &&& (tableRow i).1 = (tableRow i).2

theorem TableRow.cls : TableRow.Statement (.cls) := rfl
theorem TableRow.ret : TableRow.Statement (.ret) := rfl
theorem TableRow.jp (nnn : Addr) : TableRow.Statement (.jp nnn) := wordAddr_masked _ _
theorem TableRow.call (nnn : Addr) : TableRow.Statement (.call nnn) := wordAddr_masked _ _
theorem TableRow.seImm (x : Reg) (nn : Byte) : TableRow.Statement (.seImm x nn) := wordXNN_masked _ _ _
theorem TableRow.sneImm (x : Reg) (nn : Byte) : TableRow.Statement (.sneImm x nn) := wordXNN_masked _ _ _
theorem TableRow.seReg (x y : Reg) : TableRow.Statement (.seReg x y) := wordXYF_masked _ _ _ _
theorem TableRow.ldImm (x : Reg) (nn : Byte) : TableRow.Statement (.ldImm x nn) := wordXNN_masked _ _ _
theorem TableRow.addImm (x : Reg) (nn : Byte) : TableRow.Statement (.addImm x nn) := wordXNN_masked _ _ _
theorem TableRow.ldReg (x y : Reg) : TableRow.Statement (.ldReg x y) := wordXYF_masked _ _ _ _
theorem TableRow.orReg (x y : Reg) : TableRow.Statement (.orReg x y) := wordXYF_masked _ _ _ _
theorem TableRow.andReg (x y : Reg) : TableRow.Statement (.andReg x y) := wordXYF_masked _ _ _ _
theorem TableRow.xorReg (x y : Reg) : TableRow.Statement (.xorReg x y) := wordXYF_masked _ _ _ _
theorem TableRow.addReg (x y : Reg) : TableRow.Statement (.addReg x y) := wordXYF_masked _ _ _ _
theorem TableRow.subReg (x y : Reg) : TableRow.Statement (.subReg x y) := wordXYF_masked _ _ _ _
theorem TableRow.shr (x y : Reg) : TableRow.Statement (.shr x y) := wordXYF_masked _ _ _ _
theorem TableRow.subnReg (x y : Reg) : TableRow.Statement (.subnReg x y) := wordXYF_masked _ _ _ _
theorem TableRow.shl (x y : Reg) : TableRow.Statement (.shl x y) := wordXYF_masked _ _ _ _
theorem TableRow.sneReg (x y : Reg) : TableRow.Statement (.sneReg x y) := wordXYF_masked _ _ _ _
theorem TableRow.ldI (nnn : Addr) : TableRow.Statement (.ldI nnn) := wordAddr_masked _ _
theorem TableRow.jpV0 (nnn : Addr) : TableRow.Statement (.jpV0 nnn) := wordAddr_masked _ _
theorem TableRow.rnd (x : Reg) (nn : Byte) : TableRow.Statement (.rnd x nn) := wordXNN_masked _ _ _
theorem TableRow.drw (x y : Reg) (n : Nibble) : TableRow.Statement (.drw x y n) := wordXYN_masked _ _ _ _
theorem TableRow.skp (x : Reg) : TableRow.Statement (.skp x) := wordXFF_masked _ _ _
theorem TableRow.sknp (x : Reg) : TableRow.Statement (.sknp x) := wordXFF_masked _ _ _
theorem TableRow.ldVxDt (x : Reg) : TableRow.Statement (.ldVxDt x) := wordXFF_masked _ _ _
theorem TableRow.ldVxK (x : Reg) : TableRow.Statement (.ldVxK x) := wordXFF_masked _ _ _
theorem TableRow.ldDtVx (x : Reg) : TableRow.Statement (.ldDtVx x) := wordXFF_masked _ _ _
theorem TableRow.ldStVx (x : Reg) : TableRow.Statement (.ldStVx x) := wordXFF_masked _ _ _
theorem TableRow.addI (x : Reg) : TableRow.Statement (.addI x) := wordXFF_masked _ _ _
theorem TableRow.ldF (x : Reg) : TableRow.Statement (.ldF x) := wordXFF_masked _ _ _
theorem TableRow.ldB (x : Reg) : TableRow.Statement (.ldB x) := wordXFF_masked _ _ _
theorem TableRow.ldMemVx (x : Reg) : TableRow.Statement (.ldMemVx x) := wordXFF_masked _ _ _
theorem TableRow.ldVxMem (x : Reg) : TableRow.Statement (.ldVxMem x) := wordXFF_masked _ _ _

end Sys2Proof.Laws
end

