-- ==== Sys2Proof/Tests/Slice0.lean ====
section
/-! SUPPORT. The model's own tests. Words are written out from the formats of spec/30_encoding.md R62; expected results
come from spec/95_test_vectors.md, whose row each test names, or from the worked example of the rule it names. The last
part gives, for each statement with hypotheses, states and operands that meet them. -/

namespace Sys2Proof.Tests

-- One theorem at a time: in parallel the threads' stacks alone fill the memory a check allows.
set_option Elab.async false

open Sys2Proof.Machine

/-! ## Ill-formed operands are refused (R63, R64) -/

theorem test_reg_field_16_refused : regOf? 16 = none ∧ regOf? 15 = some 0xF := by decide
theorem test_nibble_field_16_refused : nibbleOf? 16 = none ∧ nibbleOf? 15 = some 0xF := by decide
theorem test_byte_field_256_refused : byteOf? 256 = none ∧ byteOf? 255 = some 0xFF := by decide
theorem test_addr_field_4096_refused : addrOf? 4096 = none ∧ addrOf? 4095 = some 0xFFF := by decide

/-! ## Every constructor's word, bit by bit (x = 1010, y = 0101, n = 0110, nn = 00111100, nnn = 100111100111) -/

theorem test_decode_cls : decodeWord 0b0000000011100000#16 = .ok .cls := by decide
theorem test_decode_ret : decodeWord 0b0000000011101110#16 = .ok .ret := by decide
theorem test_decode_jp : decodeWord 0b0001100111100111#16 = .ok (.jp 0x9E7) := by decide
theorem test_decode_call : decodeWord 0b0010100111100111#16 = .ok (.call 0x9E7) := by decide
theorem test_decode_seImm : decodeWord 0b0011101000111100#16 = .ok (.seImm 0xA 0x3C) := by decide
theorem test_decode_sneImm : decodeWord 0b0100101000111100#16 = .ok (.sneImm 0xA 0x3C) := by decide
theorem test_decode_seReg : decodeWord 0b0101101001010000#16 = .ok (.seReg 0xA 0x5) := by decide
theorem test_decode_ldImm : decodeWord 0b0110101000111100#16 = .ok (.ldImm 0xA 0x3C) := by decide
theorem test_decode_addImm : decodeWord 0b0111101000111100#16 = .ok (.addImm 0xA 0x3C) := by decide
theorem test_decode_ldReg : decodeWord 0b1000101001010000#16 = .ok (.ldReg 0xA 0x5) := by decide
theorem test_decode_orReg : decodeWord 0b1000101001010001#16 = .ok (.orReg 0xA 0x5) := by decide
theorem test_decode_andReg : decodeWord 0b1000101001010010#16 = .ok (.andReg 0xA 0x5) := by decide
theorem test_decode_xorReg : decodeWord 0b1000101001010011#16 = .ok (.xorReg 0xA 0x5) := by decide
theorem test_decode_addReg : decodeWord 0b1000101001010100#16 = .ok (.addReg 0xA 0x5) := by decide
theorem test_decode_subReg : decodeWord 0b1000101001010101#16 = .ok (.subReg 0xA 0x5) := by decide
theorem test_decode_shr : decodeWord 0b1000101001010110#16 = .ok (.shr 0xA 0x5) := by decide
theorem test_decode_subnReg : decodeWord 0b1000101001010111#16 = .ok (.subnReg 0xA 0x5) := by decide
theorem test_decode_shl : decodeWord 0b1000101001011110#16 = .ok (.shl 0xA 0x5) := by decide
theorem test_decode_sneReg : decodeWord 0b1001101001010000#16 = .ok (.sneReg 0xA 0x5) := by decide
theorem test_decode_ldI : decodeWord 0b1010100111100111#16 = .ok (.ldI 0x9E7) := by decide
theorem test_decode_jpV0 : decodeWord 0b1011100111100111#16 = .ok (.jpV0 0x9E7) := by decide
theorem test_decode_rnd : decodeWord 0b1100101000111100#16 = .ok (.rnd 0xA 0x3C) := by decide
theorem test_decode_drw : decodeWord 0b1101101001010110#16 = .ok (.drw 0xA 0x5 0x6) := by decide
theorem test_decode_skp : decodeWord 0b1110101010011110#16 = .ok (.skp 0xA) := by decide
theorem test_decode_sknp : decodeWord 0b1110101010100001#16 = .ok (.sknp 0xA) := by decide
theorem test_decode_ldVxDt : decodeWord 0b1111101000000111#16 = .ok (.ldVxDt 0xA) := by decide
theorem test_decode_ldVxK : decodeWord 0b1111101000001010#16 = .ok (.ldVxK 0xA) := by decide
theorem test_decode_ldDtVx : decodeWord 0b1111101000010101#16 = .ok (.ldDtVx 0xA) := by decide
theorem test_decode_ldStVx : decodeWord 0b1111101000011000#16 = .ok (.ldStVx 0xA) := by decide
theorem test_decode_addI : decodeWord 0b1111101000011110#16 = .ok (.addI 0xA) := by decide
theorem test_decode_ldF : decodeWord 0b1111101000101001#16 = .ok (.ldF 0xA) := by decide
theorem test_decode_ldB : decodeWord 0b1111101000110011#16 = .ok (.ldB 0xA) := by decide
theorem test_decode_ldMemVx : decodeWord 0b1111101001010101#16 = .ok (.ldMemVx 0xA) := by decide
theorem test_decode_ldVxMem : decodeWord 0b1111101001100101#16 = .ok (.ldVxMem 0xA) := by decide

/-- R67, R68: a fixed digit that does not match makes the word UNKNOWN. -/
theorem test_decode_unknown : [0x0000#16, 0x0123#16, 0x5121#16, 0x8AB8#16, 0x9121#16, 0xE1A2#16, 0xF1FF#16].all
    (fun op => decide (decodeWord op = .error (.unknownOpcode op))) = true := by decide
/-- R49, R61: two bytes, the high one first, and the rest left over. -/
theorem test_decode_bytes : decode [0x6A, 0x05, 0x77] = .ok (.ldImm 0xA 0x05, [0x77]) ∧ decode [0x6A] = .error .truncated := by
  decide
theorem test_encode_bytes : encodeBytes (.drw 0 1 2) = [0xD0, 0x12] := by decide
theorem test_decode_table_word : decodeTableWord 16 0x810E = some (.shl 1 0) ∧ decodeTableWord 16 0 = none := by decide

/-! ## One step -/

/-- The reset machine with a word at PC. -/
def cpu (op : Nat) : State := State.reset.withFetchWord 16 op

/-- The machine after one step. -/
def stepped (s : State) : State :=
  match step s with
  | .next t => t
  | _ => s

/-- Parameters that fault on low writes and check only set bits. -/
def strictCfg : Config := { font := defaultFont, drawBoundCheck := .setBits, lowWritePolicy := .fault }

/-- CF1 -/
theorem test_ret : let t := stepped { cpu 0x00EE with sp := 1, stack := (Vector.replicate 16 0).set 0 0x204 }
    t.pc = 0x206 ∧ t.sp = 0 ∧ t.stack[0] = 0x204 := by decide +kernel

/-- CF2 -/
theorem test_ret_underflow : let t := stepped (cpu 0x00EE)
    t.mode = .faulted ∧ t.fault = some ⟨.stackUnderflow, 0x200, 0⟩ ∧ t.pc = 0x200 := by decide +kernel

/-- R141 -/
theorem test_fault_codes : [FaultKind.fetch, .memRead, .memWrite, .display, .stackOverflow, .stackUnderflow, .keyIndex].map
    FaultKind.code = [1, 2, 3, 4, 5, 6, 7] := by decide

/-- CF4 -/
theorem test_jp : (stepped (cpu 0x1234)).pc = 0x234 := by decide +kernel

/-- CF5 at PC 0x200 -/
theorem test_call : let t := stepped (cpu 0x2210)
    t.pc = 0x210 ∧ t.sp = 1 ∧ t.stack[0] = 0x200 := by decide +kernel

/-- CF6 -/
theorem test_call_overflow : let t := stepped { cpu 0x2300 with sp := 16 }
    t.fault = some ⟨.stackOverflow, 0x200, 16⟩ ∧ t.sp = 16 ∧ t.pc = 0x200 := by decide +kernel

/-- CF7, CF8 -/
theorem test_seImm : (stepped ((cpu 0x3305).setReg 3 5)).pc = 0x204 ∧ (stepped ((cpu 0x3305).setReg 3 6)).pc = 0x202 := by decide +kernel

/-- CF9 -/
theorem test_sneImm : (stepped ((cpu 0x4305).setReg 3 5)).pc = 0x202 ∧ (stepped ((cpu 0x4305).setReg 3 6)).pc = 0x204 := by decide +kernel

/-- CF11, CF12 -/
theorem test_seReg : (stepped (((cpu 0x5120).setReg 1 7).setReg 2 7)).pc = 0x204 ∧ (stepped (cpu 0x5110)).pc = 0x204 := by decide +kernel

/-- CF13, CF14 -/
theorem test_sneReg : (stepped (((cpu 0x9120).setReg 1 7).setReg 2 8)).pc = 0x204 ∧ (stepped (cpu 0x9110)).pc = 0x202 := by decide +kernel

/-- CF15 -/
theorem test_jpV0 : (stepped ((cpu 0xB300).setReg 0 0x10)).pc = 0x310 := by decide +kernel

/-- CF16 -/
theorem test_jpV0_past_memory : let t := stepped ((cpu 0xBFFF).setReg 0 0xFF)
    t.pc = 0x10FE ∧ (stepped t).fault = some ⟨.fetch, 0x10FE, 0x10FE⟩ := by decide +kernel

/-- CF18 -/
theorem test_fetch_odd_pc : let t := stepped (({ State.reset with pc := 0x201 } : State).withFetchWord 16 0x6A07)
    t.reg 0xA = 7 ∧ t.pc = 0x203 := by decide +kernel

/-- CF19 -/
theorem test_fetch_at_top : (stepped { State.reset with pc := 0xFFF }).fault = some ⟨.fetch, 0xFFF, 0x1000⟩ := by decide +kernel

/-- L1-A -/
theorem test_ldImm : let t := stepped (cpu 0x6A05)
    t.reg 0xA = 5 ∧ t.pc = 0x202 := by decide +kernel

/-- L1-B, AL3 -/
theorem test_addImm : let t := stepped ((cpu 0x7AFF).setReg 0xA 5)
    t.reg 0xA = 4 ∧ t.reg 0xF = 1 := by decide +kernel

/-- AL5 -/
theorem test_addImm_result_wins : (stepped ((cpu 0x7F01).setReg 0xF 0xFF)).reg 0xF = 0 := by decide +kernel

/-- AL6 -/
theorem test_ldReg : (stepped ((cpu 0x8120).setReg 2 0x7E)).reg 1 = 0x7E := by decide +kernel

/-- AL7 -/
theorem test_orReg : (stepped (((cpu 0x8121).setReg 1 0xF0).setReg 2 0x0F)).reg 1 = 0xFF := by decide +kernel

/-- AL8 -/
theorem test_orReg_keeps_flag : (stepped (((cpu 0x8111).setReg 1 0x55).setReg 0xF 9)).reg 0xF = 9 := by decide +kernel

/-- AL9 -/
theorem test_andReg : (stepped (((cpu 0x8122).setReg 1 0xF0).setReg 2 0x3C)).reg 1 = 0x30 := by decide +kernel

/-- AL10 -/
theorem test_xorReg : (stepped (((cpu 0x8123).setReg 1 0xF0).setReg 2 0x3C)).reg 1 = 0xCC := by decide +kernel

/-- AL13 -/
theorem test_addReg : let t := stepped (((cpu 0x8124).setReg 1 0xC8).setReg 2 0x64)
    t.reg 1 = 0x2C ∧ t.reg 0xF = 1 := by decide +kernel

/-- AL17 -/
theorem test_addReg_reads_old_flag : let t := stepped (((cpu 0x81F4).setReg 1 0x10).setReg 0xF 1)
    t.reg 1 = 0x11 ∧ t.reg 0xF = 0 := by decide +kernel

/-- AL18 -/
theorem test_subReg : let t := stepped (((cpu 0x8125).setReg 1 0x0A).setReg 2 0x14)
    t.reg 1 = 0xF6 ∧ t.reg 0xF = 0 := by decide +kernel

/-- AL19 -/
theorem test_subReg_equal : let t := stepped (((cpu 0x8125).setReg 1 5).setReg 2 5)
    t.reg 1 = 0 ∧ t.reg 0xF = 1 := by decide +kernel

/-- AL24 -/
theorem test_shr : let t := stepped (((cpu 0x8126).setReg 1 4).setReg 2 0xFF)
    t.reg 1 = 2 ∧ t.reg 0xF = 0 := by decide +kernel

/-- AL25 -/
theorem test_shr_result_wins : (stepped ((cpu 0x8F06).setReg 0xF 3)).reg 0xF = 1 := by decide +kernel

/-- AL26 -/
theorem test_subnReg : let t := stepped (((cpu 0x8127).setReg 1 0x0A).setReg 2 0x14)
    t.reg 1 = 0x0A ∧ t.reg 0xF = 1 := by decide +kernel

/-- AL27 -/
theorem test_subnReg_borrow : let t := stepped ((cpu 0x8127).setReg 1 1)
    t.reg 1 = 0xFF ∧ t.reg 0xF = 0 := by decide +kernel

/-- AL30 -/
theorem test_shl : let t := stepped ((cpu 0x810E).setReg 1 0x81)
    t.reg 1 = 2 ∧ t.reg 0xF = 1 := by decide +kernel

/-- AL33 -/
theorem test_shl_result_wins : (stepped ((cpu 0x8F0E).setReg 0xF 0xC1)).reg 0xF = 0x82 := by decide +kernel

/-- AL34 -/
theorem test_rnd : (stepped ((cpu 0xC30F).driveRnd 0xA7)).reg 3 = 7 := by decide +kernel

/-- AL35 -/
theorem test_rnd_all_bits : (stepped ((cpu 0xC3FF).driveRnd 0xA7)).reg 3 = 0xA7 := by decide +kernel

/-- IM1 -/
theorem test_ldI : (stepped (cpu 0xA300)).i = 0x300 := by decide +kernel

/-- IM3 -/
theorem test_addI_wraps : let t := stepped ((({ cpu 0xF11E with i := 0xFFE } : State)).setReg 1 3)
    t.i = 1 ∧ t.reg 0xF = 1 := by decide +kernel

/-- IM4 -/
theorem test_addI_old_flag : let t := stepped ((({ cpu 0xFF1E with i := 0xFFF } : State)).setReg 0xF 2)
    t.i = 1 ∧ t.reg 0xF = 1 := by decide +kernel

/-- L1-D -/
theorem test_ldF : (stepped ((cpu 0xF129).setReg 1 2)).i = 10 := by decide +kernel

/-- IM7 -/
theorem test_ldF_no_mask : (stepped ((cpu 0xF129).setReg 1 0xFF)).i = 0x4FB := by decide +kernel

/-- L1-E, IM8 -/
theorem test_ldB : let t := stepped ((({ cpu 0xF333 with i := 0x300 } : State)).setReg 3 0xEA)
    t.bytesAt 0x300 3 = [2, 3, 4] ∧ t.i = 0x300 := by decide +kernel

/-- IM11 -/
theorem test_ldB_outside : let t := stepped ((({ cpu 0xF033 with i := 0xFFE } : State)).setReg 0 1)
    t.fault = some ⟨.memWrite, 0x200, 0x1000⟩ ∧ t.mem = (cpu 0xF033).mem := by decide +kernel

/-- IM15 -/
theorem test_ldMemVx : let t := stepped (((({ cpu 0xF255 with i := 0x400 } : State).setReg 0 1).setReg 1 2).setReg 2 3)
    t.bytesAt 0x400 4 = [1, 2, 3, 0] ∧ t.i = 0x400 := by decide +kernel

/-- IM14 -/
theorem test_ldMemVx_low_fault : (stepped { cpu 0xF155 with i := 0x1FF, cfg := strictCfg }).fault = some ⟨.memWrite, 0x200, 0x1FF⟩ := by decide +kernel

/-- IM18 -/
theorem test_ldVxMem : let t := stepped (({ cpu 0xF265 with i := 0x300 } : State).storeBytes 0x300 [2, 3, 4, 5])
    t.reg 0 = 2 ∧ t.reg 2 = 4 ∧ t.reg 3 = 0 := by decide +kernel

/-- IM20 -/
theorem test_ldVxMem_outside : (stepped { cpu 0xFF65 with i := 0xFF1 }).fault = some ⟨.memRead, 0x200, 0x1000⟩ := by decide +kernel

/-- L1-C -/
theorem test_cls : let t := stepped { cpu 0x00E0 with fb := Vector.replicate 32 (BitVec.allOnes 64) }
    cellAt t.fb 0 = false ∧ cellAt t.fb 2047 = false ∧ t.dirty = true := by decide +kernel

/-- DS3 -/
theorem test_drw : let t := stepped ((((({ cpu 0xD012 with i := 0x210 } : State).storeBytes 0x210 [0xC3, 0x18]).setReg 0 2).setReg 1 1))
    (List.range 2048).filter (cellAt t.fb) = [66, 67, 72, 73, 133, 134] ∧ t.reg 0xF = 0 ∧ t.dirty = true := by decide +kernel

/-- DS12 -/
theorem test_drw_collision_old_flag : let t := stepped ((({ cpu 0xDFF1 with i := 0x300, fb := toggleCell (Vector.replicate 32 0) 520 } : State).storeBytes 0x300
      [0x80]).setReg 0xF 8)
    cellAt t.fb 520 = false ∧ t.reg 0xF = 1 := by decide +kernel

/-- DS7 -/
theorem test_drw_extent_fault : let t := stepped ((({ cpu 0xD012 with i := 0x300 } : State).storeBytes 0x300 [0x80, 0]).setReg 1 31)
    t.fault = some ⟨.display, 0x200, 2048⟩ ∧ t.dirty = false := by decide +kernel

/-- DS8 -/
theorem test_drw_set_bits : let t := stepped ((({ cpu 0xD012 with i := 0x300, cfg := strictCfg } : State).storeBytes 0x300 [0x80, 0]).setReg 1 31)
    cellAt t.fb 1984 = true ∧ t.dirty = true := by decide +kernel

/-- TK1 -/
theorem test_skp : (stepped ((({ cpu 0xE59E with keys := (Vector.replicate 16 false).set 7 true } : State)).setReg 5 7)).pc = 0x204 := by decide +kernel

/-- TK5 -/
theorem test_skp_key_index : (stepped ((cpu 0xE09E).setReg 0 0x10)).fault = some ⟨.keyIndex, 0x200, 16⟩ := by decide +kernel

/-- TK3 -/
theorem test_sknp : (stepped ((({ cpu 0xE5A1 with keys := (Vector.replicate 16 false).set 7 true } : State)).setReg 5 7)).pc = 0x202 := by decide +kernel

/-- TK4 -/
theorem test_sknp_not_pressed : (stepped (cpu 0xE0A1)).pc = 0x204 := by decide +kernel

/-- TK6 -/
theorem test_ldVxDt : let t := stepped { cpu 0xF307 with delay := 5 }
    t.reg 3 = 5 ∧ t.delay = 4 := by decide +kernel

/-- TK8 -/
theorem test_ldVxK_lowest : let t := stepped { cpu 0xF00A with keys := ((Vector.replicate 16 false).set 3 true).set 5 true, delay := 2 }
    t.reg 0 = 3 ∧ t.pc = 0x202 ∧ t.delay = 1 := by decide +kernel

/-- TK9, TK10, TK11 -/
theorem test_ldVxK_waits_then_resolves : let t := stepped { cpu 0xF00A with delay := 2, sound := 2 }
    let u := stepped ((stepped t).setKey 9 true)
    t.mode = .awaitingKey ∧ t.pc = 0x200 ∧ t.delay = 2 ∧ u.mode = .running ∧ u.reg 0 = 9 ∧ u.pc = 0x202 ∧ u.delay = 1 ∧ u.sound = 1 := by decide +kernel

/-- TK12 -/
theorem test_ldDtVx : (stepped ((cpu 0xF015).setReg 0 3)).delay = 2 := by decide +kernel

/-- TK14 -/
theorem test_ldStVx_tone : let t := stepped ((cpu 0xF018).setReg 0 1)
    t.sound = 0 ∧ t.tone = true := by decide +kernel

/-- TK15 -/
theorem test_ldStVx_overwrites : let t := stepped { cpu 0xF018 with sound := 1 }
    t.sound = 0 ∧ t.tone = false := by decide +kernel

/-- EN8 -/
theorem test_unknown_word : let t := stepped { cpu 0x0000 with delay := 3, sound := 1 }
    t.unknown = some ⟨0x200, 0x0000⟩ ∧ t.pc = 0x202 ∧ t.delay = 2 ∧ t.sound = 0 ∧ t.tone = true := by decide +kernel

/-- EN9 -/
theorem test_faulted_step : let t := stepped { stepped (cpu 0x00EE) with delay := 5 }
    t.mode = .faulted ∧ t.delay = 5 ∧ t.pc = 0x200 := by decide +kernel

/-- EN12 -/
theorem test_load_overflow : (State.reset.loadImage (List.replicate 3585 1)).1 = .loadOverflow := by decide +kernel

/-- L1-A, R49 -/
theorem test_load : let t := (State.reset.loadImage [0x6A, 0x05]).2
    t.byteAt 0x200 = 0x6A ∧ t.byteAt 0x201 = 0x05 ∧ (stepped t).reg 0xA = 5 := by decide +kernel

/-- IM19 -/
theorem test_reset_font_byte : State.reset.byteAt 0 = 0xF0 ∧ State.reset.byteAt 79 = 0x80 ∧ State.reset.byteAt 80 = 0 := by decide +kernel

/-! ## Witnesses: for each statement with hypotheses, states and operands that meet them -/

/-- A reset machine with one register set, which satisfies the invariant. -/
theorem witness_inv : ({ State.reset with pc := 0x10FE } : State).Inv where
  memory := State.resetWith_memory_wf _
  pcBound := by decide
  stackBound := by decide
  waitingPc := by simp [State.reset, State.resetWith]
  faultRecord := by simp [State.reset, State.resetWith]
  quiet := by simp [State.reset, State.resetWith]

theorem witness_StepKeepsTheInvariant : ∃ s t : State, s.Inv ∧ step s = .next t := ⟨_, _, witness_inv, rfl⟩

theorem witness_RunsKeepTheInvariant : ∃ s t run, State.Inv s ∧ s.after run = some t ∧ run = [.step, .keyDown 15] :=
  ⟨_, _, _, witness_inv, rfl, rfl⟩

theorem witness_DecodeOfEncodeIsTheInstruction : (Instr.drw 0xF 0xF 0xF).wellFormed = true := by decide

theorem witness_EncodeOfDecodeIsTheWord : decodeWord 0xDFFF#16 = .ok (.drw 0xF 0xF 0xF) := by decide

theorem witness_StepRunsTheDecodedInstruction :
    let s : State := ({ State.reset with pc := 0xFFE } : State).withFetchWord 16 0x6A05
    s.mode = .running ∧ s.pc.toNat + 1 ≤ 0xFFF ∧
      decodeWord (s.byteAt s.pc.toNat ++ s.byteAt (s.pc.toNat + 1)) = .ok (.ldImm 0xA 0x05) := by decide +kernel

theorem witness_UnknownWordIsReportedAndSkipped :
    let s : State := { State.reset with pc := 0xFFE }
    s.mode = .running ∧ s.pc.toNat + 1 ≤ 0xFFF ∧
      decodeWord (s.byteAt s.pc.toNat ++ s.byteAt (s.pc.toNat + 1)) = .error (.unknownOpcode 0) := by decide +kernel

theorem witness_FetchPastMemoryFaults :
    ({ State.reset with pc := 0xFFF } : State).mode = .running ∧ ({ State.reset with pc := 0xFFF } : State).pc.toNat + 1 > 0xFFF ∧
      ({ State.reset with pc := 0x1000 } : State).pc.toNat > 0xFFF := by decide

theorem witness_FaultedStepDoesNothing : (stepped (cpu 0x00EE)).mode = .faulted := by decide +kernel

theorem witness_WaitingStepPollsTheKeys_no_key :
    (stepped (cpu 0xF00A)).mode = .awaitingKey ∧ ∀ k : Fin 16, (stepped (cpu 0xF00A)).keys[k] = false := by decide +kernel

theorem witness_WaitingStepPollsTheKeys_key :
    let s := (stepped (cpu 0xF00A)).setKey 15 true
    s.mode = .awaitingKey ∧ s.keys[(15 : Fin 16)] = true ∧ ∀ j : Fin 16, j < 15 → s.keys[j] = false := by decide +kernel

theorem witness_RetPopsOrUnderflows :
    State.reset.sp.val = 0 ∧ ({ State.reset with sp := 1 } : State).sp.val = (0 : Fin 16).val + 1 ∧
      ({ State.reset with sp := 16 } : State).sp.val = (15 : Fin 16).val + 1 := by decide

theorem witness_CallPushesOrOverflows :
    State.reset.sp.val = (0 : Fin 16).val ∧ ({ State.reset with sp := 15 } : State).sp.val = (15 : Fin 16).val ∧
      ({ State.reset with sp := 16 } : State).sp.val = 16 := by decide

/-- The other low nibble of SeRegSkipsIfEqual and SneRegSkipsIfDifferent, at both ends of its range. -/
theorem witness_reg_skips_other_nibble : (0x1 : Nibble) ≠ 0 ∧ (0xF : Nibble) ≠ 0 := by decide

theorem witness_JpV0AddsV0WithoutWrap :
    ∃ t, exec (.jpV0 0xFFF) (State.reset.setReg 0 0xFF) = .next t ∧ t.mode = .running ∧ t.pc.toNat + 1 > 0xFFF :=
  ⟨_, rfl, rfl, by decide +kernel⟩

/-- The flag clauses of AddImm, AddReg, SubReg, Shr, SubnReg and Shl. -/
theorem witness_flag_clauses : (0xE : Reg) ≠ 0xF ∧ (0x0 : Reg) ≠ 0xF := by decide

/-- The two clauses of RndMasksTheRandomByte, at both ends of the byte's range. -/
theorem witness_RndMasksTheRandomByte :
    State.reset.rnd = none ∧ (State.reset.driveRnd 0).rnd = some 0 ∧ (State.reset.driveRnd 0xFF).rnd = some 0xFF := by decide

/-- R75, R131: the `step` transaction answers the tone its timer phase emitted. -/
theorem test_step_answers_tone : ∃ t, transact .step ((cpu 0xF018).setReg 0 1) = .next (t, .step true none) :=
  ⟨_, by rfl⟩

/-- OnlyRndConsumesTheRandomByte, RegistersChangeOnlyAsTheTableSays, PartsChangeOnlyByTheirInstructions. -/
theorem witness_exec_answers :
    (∃ t, exec (.rnd 0xF 0xFF) State.reset = .next t) ∧ (∃ t, exec (.ldB 0xF) State.reset = .next t) ∧
      (∃ t, exec .cls { State.reset with dirty := true } = .next t) := ⟨⟨_, rfl⟩, ⟨_, rfl⟩, ⟨_, rfl⟩⟩

theorem witness_LdBStoresTheDecimalDigits :
    ({ State.reset with i := 0xFFE } : State).i.toNat + 2 > 0xFFF ∧
      (({ State.reset with i := 0x1FF, cfg := strictCfg } : State).i.toNat + 2 ≤ 0xFFF ∧
        ¬ LowWriteAllowed { State.reset with i := 0x1FF, cfg := strictCfg }) ∧
      (({ State.reset with i := 0xFFD, cfg := strictCfg } : State).i.toNat + 2 ≤ 0xFFF ∧
        LowWriteAllowed { State.reset with i := 0xFFD, cfg := strictCfg }) := by
  simp [LowWriteAllowed, strictCfg]

/-- LdMemVxStoresTheRegisters, and its last two lines for StoreThenLoadReproducesTheRegisters. -/
theorem witness_LdMemVxStoresTheRegisters :
    ({ State.reset with i := 0xFF1 } : State).i.toNat + (0xF : Reg).toNat > 0xFFF ∧
      (({ State.reset with i := 0x1FF, cfg := strictCfg } : State).i.toNat + (0x0 : Reg).toNat ≤ 0xFFF ∧
        ¬ LowWriteAllowed { State.reset with i := 0x1FF, cfg := strictCfg }) ∧
      (({ State.reset with i := 0xFF0, cfg := strictCfg } : State).i.toNat + (0xF : Reg).toNat ≤ 0xFFF ∧
        LowWriteAllowed { State.reset with i := 0xFF0, cfg := strictCfg }) := by
  simp [LowWriteAllowed, strictCfg]

/-- The state between the store and the load may be the one after the store. -/
theorem witness_StoreThenLoadReproducesTheRegisters :
    ∃ t, exec (.ldMemVx 0xF) { State.reset with i := 0xFF0 } = .next t ∧ t.i = 0xFF0 ∧
      LowWriteAllowed { State.reset with i := 0xFF0 } ∧
      ∀ q : Reg, q.toNat ≤ 0xF → t.byteAt (0xFF0 + q.toNat) = t.byteAt (0xFF0 + q.toNat) :=
  ⟨_, rfl, rfl, .inl rfl, fun _ _ => rfl⟩

theorem witness_LdVxMemLoadsTheRegisters :
    ({ State.reset with i := 0xFF1 } : State).i.toNat + (0xF : Reg).toNat > 0xFFF ∧
      ({ State.reset with i := 0xFF0 } : State).i.toNat + (0xF : Reg).toNat ≤ 0xFFF := by decide

theorem witness_StoreOverNextWordIsFetched :
    let s : State := ({ State.reset with i := 0x202 } : State).setReg 0 0x12
    s.mode = .running ∧ s.i.toNat = s.pc.toNat + 2 ∧ 1 ≤ (0x1 : Reg).toNat ∧ s.i.toNat + (0x1 : Reg).toNat ≤ 0xFFF ∧
      s.cfg.lowWritePolicy = .write ∧ decodeWord (s.reg 0x0 ++ s.reg 0x1) = .ok (.jp 0x200) := by decide +kernel

theorem witness_DrwDrawsOrFaults_unreadable : ¬ SpriteReadable { State.reset with i := 0xFFF } 0x2 := by
  simp [SpriteReadable]

/-- Vy = 31, n = 2: row 1 starts at cell 2048, the lowest beyond 2047. -/
theorem witness_DrwDrawsOrFaults_beyond :
    let s : State := ({ State.reset with i := 0xFFE } : State).setReg 1 31
    SpriteReadable s 0x2 ∧ SpriteChecks s 0x0 0x1 0x2 2048 ∧
      ∀ j, SpriteChecks s 0x0 0x1 0x2 j → j > 2047 → 2048 ≤ j := by
  refine ⟨by simp [SpriteReadable], ⟨1, 0, by decide, by decide, ?_⟩, fun j _ hj => hj⟩
  show 2048 = _
  decide +kernel

/-- Vx = 56, Vy = 31, n = 1: the cells 2040 to 2047. -/
theorem witness_DrwDrawsOrFaults_inside :
    let s : State := ({ State.reset with i := 0xFFF } : State).setReg 0 56 |>.setReg 1 31
    SpriteReadable s 0x1 ∧ ∀ k, SpriteChecks s 0x0 0x1 0x1 k → k ≤ 2047 := by
  refine ⟨by simp [SpriteReadable], ?_⟩
  rintro k ⟨r, c, hr, hc, hk⟩
  have h0 : ((({ State.reset with i := 0xFFF } : State).setReg 0 56).setReg 1 31).reg 0 = 56 := by decide +kernel
  have h1 : ((({ State.reset with i := 0xFFF } : State).setReg 0 56).setReg 1 31).reg 1 = 31 := by decide +kernel
  have hr1 : r < 1 := hr
  unfold SpriteCellIs at hk
  rw [h0, h1] at hk
  have e0 : (56 : Byte).toNat = 56 := rfl
  have e1 : (31 : Byte).toNat = 31 := rfl
  rw [e0, e1] at hk
  omega

/-- Under SET_BITS a draw whose unset bits lie beyond 2047 checks nothing there. -/
theorem witness_DrwDrawsOrFaults_setBits :
    ∀ k, ¬ SpriteChecks ({ State.reset with i := 0x300, cfg := strictCfg } : State) 0x0 0x1 0x1 k := by
  rintro k ⟨r, c, hr, hc, -, hb⟩
  have hr0 : r = 0 := Nat.lt_one_iff.1 hr
  subst hr0
  have : ({ State.reset with i := 0x300, cfg := strictCfg } : State).byteAt 0x300 = 0 := by decide +kernel
  have h2 : ({ State.reset with i := 0x300, cfg := strictCfg } : State).i.toNat + 0 = 0x300 := rfl
  rw [h2, this] at hb
  simp at hb

/-- SkpSkipsIfPressed and SknpSkipsIfNotPressed, on both sides of 15. -/
theorem witness_key_skips :
    ((State.reset.setReg 5 16).reg 5).toNat > 15 ∧ ((State.reset.setReg 5 15).reg 5).toNat = (15 : Fin 16).val := by
  decide +kernel

theorem witness_LdVxKTakesTheLowestKeyOrWaits :
    (∀ k : Fin 16, State.reset.keys[k] = false) ∧
      (State.reset.setKey 15 true).keys[(15 : Fin 16)] = true ∧
      ∀ j : Fin 16, j < 15 → (State.reset.setKey 15 true).keys[j] = false := by decide +kernel

theorem witness_FaultsArePrecise :
    ∃ t, State.reset.mode ≠ .faulted ∧ step { State.reset with pc := 0xFFF } = .next t ∧ t.mode = .faulted :=
  ⟨_, by decide, rfl, rfl⟩

theorem witness_OnlyTheNamedInstructionsFault :
    ∃ t, State.reset.mode = .running ∧ exec .ret State.reset = .next t ∧ t.mode = .faulted := ⟨_, rfl, rfl, rfl⟩

/-- The clauses of TimersCountCompletedSteps: entering the wait, resolving it, an unknown word, Fx18. -/
theorem witness_TimersCountCompletedSteps :
    (stepped (cpu 0xF00A)).mode ≠ .running ∧
      (((stepped (cpu 0xF00A)).setKey 0 true).mode = .awaitingKey ∧
        (stepped ((stepped (cpu 0xF00A)).setKey 0 true)).mode = .running) ∧
      (State.reset.mode = .running ∧ (stepped State.reset).mode = .running ∧
        decodeWord 0x0000#16 = .error (.unknownOpcode 0)) ∧
      ((stepped (cpu 0xF018)).mode = .running ∧ decodeWord 0xF018#16 = .ok (.ldStVx 0)) := by decide +kernel

theorem witness_TimersCountCompletedSteps_fetch :
    State.reset.fetchWord = .ok 0x0000#16 ∧ (cpu 0xF018).fetchWord = .ok 0xF018#16 :=
  ⟨State.withFetchWord_fetches { State.reset with mem := [] } 0 (by decide), State.withFetchWord_fetches State.reset 0xF018 (by decide)⟩

theorem witness_OnlyResetLeavesFaulted :
    ∃ s t run, s.mode = .faulted ∧ Transaction.reset ∉ run ∧ State.after s run = some t ∧ run = [.step, .keyUp 0, .load [1]] :=
  ⟨State.takeFault State.reset .fetch 0, _, _, rfl, by decide, rfl, rfl⟩

/-- The longest image that fits and the shortest that does not. -/
theorem witness_LoadCopiesOrOverflows :
    (∃ bytes : List Byte, bytes.length > 0xFFF - 0x200 + 1) ∧ (∃ bytes : List Byte, bytes.length = 0xFFF - 0x200 + 1) :=
  ⟨⟨List.replicate (0xFFF - 0x200 + 2) 0, lt_of_lt_of_eq (Nat.lt_succ_self _) List.length_replicate.symm⟩,
    ⟨List.replicate (0xFFF - 0x200 + 1) 0, List.length_replicate⟩⟩

theorem witness_KeyCallsSetOneFlag : (15 : Nat) = (15 : Fin 16).val ∧ 15 < 16 := by decide

end Sys2Proof.Tests
end

section
/-! SUPPORT. The proofs of the statements about the state (spec/10_state.md). An instruction's writes are described once, as
a relation `Writes` between the state before and after them, with one rule per state operation; `exec_ends` then says for
every instruction how it ends its step (`exec_cases` of Laws/Cycle.lean, and what the writes keep), and
`leaves_of_transact` in which state a host transaction leaves the machine. The statements follow from the two. -/

namespace Sys2Proof.Machine

/-! ## What the writes of an instruction keep -/

/-- PC is that of a fetched word and every stack entry that of a fetched 2nnn: what a RUNNING step knows of a state with the
invariant once its fetch has succeeded. -/
def State.InBounds (s : State) : Prop := s.pc.toNat ≤ 0xFFE ∧ ∀ k : Fin 16, s.stack[k].toNat ≤ 0xFFE

/-- `w` is `s` after writes that the tables of Safety.lean allow `i`, before PC and the timer phase. -/
structure Writes (i : Instr) (s w : State) : Prop where
  regs : SameRegsBut (writtenRegs i) s w
  index : writesIndex i = false → w.i = s.i
  stack : reachesStack i = false → SameStack s w
  stackBound : s.InBounds → ∀ k : Fin 16, w.stack[k].toNat ≤ 0xFFE
  memory : writesMemory i = false → w.mem = s.mem
  canonical : Memory.wf s.cfg.font s.mem → Memory.wf w.cfg.font w.mem
  display : writesDisplay i = false → SameDisplay s w
  dirty : s.dirty = true → w.dirty = true
  random : (∀ x nn, i ≠ .rnd x nn) → SameRandom s w
  inputs : SameInputs s w
  pc : w.pc = s.pc
  mode : w.mode = s.mode
  fault : w.fault = s.fault

namespace Writes

variable {i : Instr} {s w : State}

theorem nothing (i : Instr) (s : State) : Writes i s s where
  regs _ _ := rfl
  index _ := rfl
  stack _ := ⟨rfl, rfl⟩
  stackBound h := h.2
  memory _ := rfl
  canonical := id
  display _ := ⟨rfl, rfl⟩
  dirty := id
  random _ := ⟨rfl, rfl⟩
  inputs := ⟨rfl, rfl⟩
  pc := rfl
  mode := rfl
  fault := rfl

theorem setReg (h : Writes i s w) {x : Reg} (b : Byte) (hx : x ∈ writtenRegs i) : Writes i s (w.setReg x b) :=
  { h with
    regs := fun q hq => by
      have hqx : q ≠ x := fun e => hq (e ▸ hx)
      rw [State.reg_setReg_other w b hqx, h.regs q hq] }

theorem setFlag (h : Writes i s w) (f : Bool) (hf : 0xF ∈ writtenRegs i) : Writes i s (w.setFlag f) :=
  h.setReg (x := flagReg) _ hf

theorem setFlagThenReg (h : Writes i s w) (f : Bool) {x : Reg} (r : Byte) (hf : 0xF ∈ writtenRegs i)
    (hx : x ∈ writtenRegs i) : Writes i s (w.setFlagThenReg f x r) :=
  (h.setFlag f hf).setReg r hx

theorem loadRegBlock (s : State) (x : Reg) : Writes (.ldVxMem x) s (s.loadRegBlock x) where
  regs q hq := by
    have hqx : ¬ q.toNat ≤ x.toNat := fun hle =>
      hq (List.mem_map.2 ⟨q.toNat, List.mem_range.2 (Nat.lt_succ_of_le hle), by simp⟩)
    rw [State.reg_loadRegBlock, if_neg hqx]
  index _ := by simp
  stack _ := by simp [SameStack]
  stackBound h := by simpa using h.2
  memory _ := by simp
  canonical hm := by simpa using hm
  display _ := by simp [SameDisplay]
  dirty hd := by simpa using hd
  random _ := by simp [SameRandom]
  inputs := by simp [SameInputs]
  pc := by simp
  mode := by simp
  fault := by simp

theorem setI (h : Writes i s w) (a : Addr) (hi : writesIndex i = true) : Writes i s (w.setI a) :=
  { h with index := fun hn => by simp [hi] at hn }

theorem storeBytes (s : State) (a : Nat) (bs : List Byte) (hi : writesMemory i = true) :
    Writes i s (s.storeBytes a bs) where
  regs q _ := by simp
  index _ := by simp
  stack _ := by simp [SameStack]
  stackBound h := by simpa using h.2
  memory hn := by simp [hi] at hn
  canonical hm := by simpa using s.storeBytes_wf hm a bs
  display _ := by simp [SameDisplay]
  dirty hd := by simpa using hd
  random _ := by simp [SameRandom]
  inputs := by simp [SameInputs]
  pc := by simp
  mode := by simp
  fault := by simp

theorem setDisplay (h : Writes i s w) (fb : Framebuffer) (hi : writesDisplay i = true) : Writes i s (w.show fb) :=
  { h with display := fun hn => by simp [hi] at hn, dirty := fun _ => rfl }

theorem consumeRnd (x : Reg) (nn : Byte) (s : State) : Writes (.rnd x nn) s s.consumeRnd :=
  { nothing (.rnd x nn) s with random := fun hn => absurd rfl (hn x nn) }

theorem setTimers (h : Writes i s w) (delay sound : Byte) : Writes i s { w with delay := delay, sound := sound } :=
  { h with }

/-- 00EE moves SP and keeps the slots. -/
theorem setSp (s : State) (sp : Fin 17) (hi : reachesStack i = true) : Writes i s { s with sp := sp } :=
  { nothing i s with stack := fun hn => by simp [hi] at hn }

/-- 2nnn pushes its own PC, which its fetch has bounded. -/
theorem pushPc (s : State) {k : Nat} (hk : k < 16) (sp : Fin 17) (hi : reachesStack i = true) :
    Writes i s { s with stack := s.stack.set k s.pc hk, sp := sp } :=
  { nothing i s with
    stack := fun hn => by simp [hi] at hn
    stackBound := fun h j => by
      show (s.stack.set k s.pc hk)[j.val].toNat ≤ 0xFFE
      rw [Vector.getElem_set]
      split
      · exact h.1
      · exact h.2 j }

end Writes

/-! ## The next value of PC -/

/-- `next` does not exceed 0x10FE where PC is that of a fetched word (spec/10_state.md R17). -/
def PcBounded (s : State) (next : Word) : Prop := s.InBounds → next.toNat ≤ 0x10FE

theorem toNat_add_le {a b : Word} {m n : Nat} (ha : a.toNat ≤ m) (hb : b.toNat ≤ n) : (a + b).toNat ≤ m + n := by
  rw [BitVec.toNat_add]
  exact (Nat.mod_le _ _).trans (Nat.add_le_add ha hb)

theorem targetOf_le (nnn : Addr) : (targetOf nnn).toNat ≤ 0xFFF := by
  have := nnn.isLt
  simp only [targetOf, BitVec.toNat_setWidth]
  omega

namespace PcBounded

theorem add {s : State} {d : Word} (hd : d.toNat ≤ 0x100) : PcBounded s (s.pc + d) := fun h => toNat_add_le h.1 hd

theorem skip (s : State) (c : Bool) : PcBounded s (if c then s.pc + 4 else s.pc + 2) := by
  cases c
  · exact add (by decide)
  · exact add (by decide)

theorem target (s : State) (nnn : Addr) : PcBounded s (targetOf nnn) := fun _ => (targetOf_le nnn).trans (by decide)

theorem targetPlusV0 (s : State) (nnn : Addr) : PcBounded s (targetOf nnn + (s.reg 0).setWidth 16) := fun _ => by
  have hv : ((s.reg 0).setWidth 16).toNat ≤ 0xFF := by
    have := (s.reg 0).isLt
    rw [BitVec.toNat_setWidth]
    omega
  exact toNat_add_le (targetOf_le nnn) hv

theorem popped (s : State) {k : Nat} (hk : k < 16) : PcBounded s (s.stack[k] + 2) := fun h =>
  toNat_add_le (n := 0x100) (h.2 ⟨k, hk⟩) (by decide)

end PcBounded

/-! ## How an instruction ends its step -/

/-- The three ends of an instruction's step (spec/30_encoding.md R78, R83, R84). -/
inductive Ends (i : Instr) (s : State) : State → Prop
  | completes {w : State} {next : Word} (hw : Writes i s w) (hn : PcBounded s next) : Ends i s (w.complete next)
  | faults (kind : FaultKind) (a : Nat) : Ends i s (s.takeFault kind a)
  | waits (x : Reg) : Ends i s (s.enterWait x)

theorem Ends.advances {i : Instr} {s w : State} (hw : Writes i s w) : Ends i s w.advance :=
  .completes hw (hw.pc ▸ PcBounded.add (by decide))

theorem Ends.skips (i : Instr) (s : State) (c : Bool) : Ends i s (s.skipIf c) :=
  .completes (.nothing i s) (.skip s c)

theorem Ends.setsReg {i : Instr} {x : Reg} (s : State) (b : Byte) (hx : x ∈ writtenRegs i) :
    Ends i s (s.setReg x b).advance :=
  .advances ((Writes.nothing i s).setReg b hx)

theorem Ends.setsFlagAndReg {i : Instr} {x : Reg} (s : State) (f : Bool) (r : Byte) (hi : writtenRegs i = [x, 0xF]) :
    Ends i s (s.setFlagThenReg f x r).advance :=
  .advances ((Writes.nothing i s).setFlagThenReg f r (by simp [hi]) (by simp [hi]))

/-- Every instruction ends its step in one of the three ways, with the writes of its own rows. -/
theorem exec_ends (i : Instr) (s : State) : ∃ t, exec i s = .next t ∧ Ends i s t := by
  have start : Writes i s s := .nothing i s
  cases i with
  | cls => exact ⟨_, rfl, .advances (start.setDisplay _ rfl)⟩
  | ret =>
    simp only [exec, execRet]
    split
    · exact ⟨_, rfl, .faults _ _⟩
    · exact ⟨_, rfl, .completes (.setSp s _ rfl) (.popped s _)⟩
  | jp nnn => exact ⟨_, rfl, .completes start (.target s nnn)⟩
  | call nnn =>
    simp only [exec, execCall]
    split
    · exact ⟨_, rfl, .completes (.pushPc s _ _ rfl) (.target s nnn)⟩
    · exact ⟨_, rfl, .faults _ _⟩
  | seImm x nn => exact ⟨_, rfl, .skips _ s _⟩
  | sneImm x nn => exact ⟨_, rfl, .skips _ s _⟩
  | seReg x y => exact ⟨_, rfl, .skips _ s _⟩
  | ldImm x nn => exact ⟨_, rfl, .setsReg s _ (List.mem_singleton_self x)⟩
  | addImm x nn => exact ⟨_, rfl, .setsFlagAndReg s _ _ rfl⟩
  | ldReg x y => exact ⟨_, rfl, .setsReg s _ (List.mem_singleton_self x)⟩
  | orReg x y => exact ⟨_, rfl, .setsReg s _ (List.mem_singleton_self x)⟩
  | andReg x y => exact ⟨_, rfl, .setsReg s _ (List.mem_singleton_self x)⟩
  | xorReg x y => exact ⟨_, rfl, .setsReg s _ (List.mem_singleton_self x)⟩
  | addReg x y => exact ⟨_, rfl, .setsFlagAndReg s _ _ rfl⟩
  | subReg x y => exact ⟨_, rfl, .setsFlagAndReg s _ _ rfl⟩
  | shr x y => exact ⟨_, rfl, .setsFlagAndReg s _ _ rfl⟩
  | subnReg x y => exact ⟨_, rfl, .setsFlagAndReg s _ _ rfl⟩
  | shl x y => exact ⟨_, rfl, .setsFlagAndReg s _ _ rfl⟩
  | sneReg x y => exact ⟨_, rfl, .skips _ s _⟩
  | ldI nnn => exact ⟨_, rfl, .advances (start.setI nnn rfl)⟩
  | jpV0 nnn => exact ⟨_, rfl, .completes start (.targetPlusV0 s nnn)⟩
  | rnd x nn => exact ⟨_, rfl, .advances ((Writes.consumeRnd x nn s).setReg _ (List.mem_singleton_self x))⟩
  | drw x y n =>
    simp only [exec, execDrw]
    split
    · exact ⟨_, rfl, .faults _ _⟩
    · split
      · exact ⟨_, rfl, .faults _ _⟩
      · exact ⟨_, rfl, .advances ((start.setDisplay _ rfl).setFlag _ (List.mem_singleton_self _))⟩
  | skp x =>
    simp only [exec, execSkp]
    split
    · exact ⟨_, rfl, .skips _ s _⟩
    · exact ⟨_, rfl, .faults _ _⟩
  | sknp x =>
    simp only [exec, execSknp]
    split
    · exact ⟨_, rfl, .skips _ s _⟩
    · exact ⟨_, rfl, .faults _ _⟩
  | ldVxDt x => exact ⟨_, rfl, .setsReg s _ (List.mem_singleton_self x)⟩
  | ldVxK x =>
    simp only [exec, execLdVxK]
    split
    · exact ⟨_, rfl, .setsReg s _ (List.mem_singleton_self x)⟩
    · exact ⟨_, rfl, .waits x⟩
  | ldDtVx x => exact ⟨_, rfl, .advances (start.setTimers (s.reg x) s.sound)⟩
  | ldStVx x => exact ⟨_, rfl, .advances (start.setTimers s.delay (s.reg x))⟩
  | addI x => exact ⟨_, rfl, .advances ((start.setFlag _ (List.mem_singleton_self _)).setI _ rfl)⟩
  | ldF x => exact ⟨_, rfl, .advances (start.setI _ rfl)⟩
  | ldB x =>
    simp only [exec, execLdB]
    split
    · exact ⟨_, rfl, .faults _ _⟩
    · exact ⟨_, rfl, .advances (.storeBytes s _ _ rfl)⟩
  | ldMemVx x =>
    simp only [exec, execLdMemVx]
    split
    · exact ⟨_, rfl, .faults _ _⟩
    · exact ⟨_, rfl, .advances (.storeBytes s _ _ rfl)⟩
  | ldVxMem x =>
    simp only [exec, execLdVxMem]
    split
    · exact ⟨_, rfl, .faults _ _⟩
    · exact ⟨_, rfl, .advances (.loadRegBlock s x)⟩

/-- The inversion of `exec` that the proofs below cite. -/
theorem ends_of_exec {i : Instr} {s t : State} (h : exec i s = .next t) : Ends i s t := by
  obtain ⟨t', ht', he⟩ := exec_ends i s
  cases h.symm.trans ht'
  exact he

/-! ## What an instruction leaves unchanged -/

theorem Ends.sameRegsBut {i : Instr} {s t : State} (h : Ends i s t) : SameRegsBut (writtenRegs i) s t := by
  cases h with
  | completes hw _ => exact hw.regs
  | faults _ _ => exact fun _ _ => rfl
  | waits _ => exact fun _ _ => rfl

theorem Ends.sameInputs {i : Instr} {s t : State} (h : Ends i s t) : SameInputs s t := by
  cases h with
  | completes hw _ => exact hw.inputs
  | faults _ _ => exact ⟨rfl, rfl⟩
  | waits _ => exact ⟨rfl, rfl⟩

theorem Ends.sameRandom {i : Instr} {s t : State} (h : Ends i s t) (hi : ∀ x nn, i ≠ .rnd x nn) : SameRandom s t := by
  cases h with
  | completes hw _ => exact hw.random hi
  | faults _ _ => exact ⟨rfl, rfl⟩
  | waits _ => exact ⟨rfl, rfl⟩

/-- Writes that leave the list of memory alone leave every byte as it reads. -/
theorem Writes.sameMemory {i : Instr} {s w : State} (h : Writes i s w) (hi : writesMemory i = false) : SameMemory s w :=
  fun a => by rw [State.byteAt, State.byteAt, h.memory hi, h.inputs.2]

/-! ## The invariant -/

/-- A RUNNING state has the invariant once memory and the bounds are as it says and no fault is recorded. -/
theorem State.Inv.of_running {t : State} (hmode : t.mode = .running) (hfault : t.fault = none)
    (memory : Memory.wf t.cfg.font t.mem) (pcBound : t.pc.toNat ≤ 0x10FE)
    (stackBound : ∀ k : Fin 16, t.stack[k].toNat ≤ 0xFFE) : t.Inv where
  memory := memory
  pcBound := pcBound
  stackBound := stackBound
  waitingPc h := by simp [hmode] at h
  faultRecord := by simp [hmode, hfault]
  quiet h := absurd hmode h

theorem State.resetWith_inv (c : Config) : (State.resetWith c).Inv :=
  .of_running rfl rfl (State.resetWith_memory_wf c) (by simp [State.resetWith]) fun k => by simp [State.resetWith]

namespace State.Inv

variable {s : State}

theorem no_fault (h : s.Inv) (hmode : s.mode ≠ .faulted) : s.fault = none := h.faultRecord.2 hmode

theorem inBounds (h : s.Inv) {op : Word} (hop : s.fetchWord = .ok op) : s.InBounds := by
  have hpc := (State.fetchWord_ok hop).1
  exact ⟨by omega, h.stackBound⟩

theorem idleStep (h : s.Inv) : s.idleStep.Inv := { h with quiet := fun _ => ⟨rfl, rfl⟩ }

theorem takeFault (h : s.Inv) (kind : FaultKind) (a : Nat) : (s.takeFault kind a).Inv :=
  { h with
    waitingPc := fun hw => by simp at hw
    faultRecord := by simp
    quiet := fun _ => ⟨rfl, rfl⟩ }

theorem enterWait (h : s.Inv) (hmode : s.mode = .running) (hpc : s.pc.toNat ≤ 0xFFE) (x : Reg) : (s.enterWait x).Inv :=
  { h with
    waitingPc := fun _ => hpc
    faultRecord := by simp [h.no_fault (by simp [hmode])]
    quiet := fun _ => ⟨rfl, rfl⟩ }

theorem unknownStep (h : s.Inv) (hmode : s.mode = .running) (hb : s.InBounds) (op : Word) : (s.unknownStep op).Inv :=
  .of_running hmode (h.no_fault (by simp [hmode])) h.memory (PcBounded.add (by decide) hb) h.stackBound

/-- A waiting PC is that of a fetched Fx0A, so the step that resolves the wait stays in bounds. -/
theorem awaitingStep (h : s.Inv) (hmode : s.mode = .awaitingKey) : s.awaitingStep.Inv := by
  obtain ⟨-, ht⟩ | ⟨k, -, ht⟩ := s.awaitingStep_cases
  · exact ht ▸ h.idleStep
  · have hb : s.InBounds := ⟨h.waitingPc hmode, h.stackBound⟩
    rw [ht]
    exact .of_running rfl (h.no_fault (by simp [hmode])) h.memory (PcBounded.add (by decide) hb) h.stackBound

theorem exec {i : Instr} {t : State} (h : s.Inv) (hmode : s.mode = .running) (hb : s.InBounds)
    (he : exec i s = .next t) : t.Inv := by
  cases ends_of_exec he with
  | completes hw hn =>
    exact .of_running (hw.mode.trans hmode) (hw.fault.trans (h.no_fault (by simp [hmode]))) (hw.canonical h.memory)
      (hn hb) (hw.stackBound hb)
  | faults kind a => exact h.takeFault kind a
  | waits x => exact h.enterWait hmode hb.1 x

theorem step {t : State} (h : s.Inv) (hs : step s = .next t) : t.Inv := by
  obtain ⟨-, rfl⟩ | ⟨hmode, rfl⟩ | ⟨-, a, -, rfl⟩ | ⟨hmode, op, e, hop, -, rfl⟩ | ⟨hmode, op, i, hop, -, he⟩ :=
    step_cases hs
  · exact h.idleStep
  · exact h.awaitingStep hmode
  · exact h.takeFault .fetch a
  · exact h.unknownStep hmode (h.inBounds hop) op
  · exact h.exec hmode (h.inBounds hop) he

end State.Inv

/-- No step changes the parameters. -/
theorem step_cfg {s t : State} (hs : step s = .next t) : t.cfg = s.cfg := by
  obtain ⟨-, rfl⟩ | ⟨-, rfl⟩ | ⟨-, a, -, rfl⟩ | ⟨-, op, e, -, -, rfl⟩ | ⟨-, op, i, -, -, he⟩ := step_cases hs
  · rfl
  · obtain ⟨-, ht⟩ | ⟨k, -, ht⟩ := s.awaitingStep_cases <;> rw [ht] <;> rfl
  · rfl
  · rfl
  · exact (ends_of_exec he).sameInputs.2

/-! ## Host transactions and runs of them -/

/-- The state a transaction leaves `s` in, its answer aside (spec/60_exceptions.md R146 to R152). -/
inductive Leaves (s : State) : Transaction → State → Prop
  | reset : Leaves s .reset s.resetByHost
  | loads (bytes : List Byte) : Leaves s (.load bytes) (s.storeBytes programBase bytes)
  | overflows (bytes : List Byte) : Leaves s (.load bytes) s
  | steps {t : State} (hs : step s = .next t) : Leaves s .step t
  | keyDown (k : Fin 16) : Leaves s (.keyDown k.val) (s.setKey k true)
  | keyUp (k : Fin 16) : Leaves s (.keyUp k.val) (s.setKey k false)
  | displayDirty : Leaves s .displayDirty s
  | readDisplay : Leaves s .readDisplay { s with dirty := false }
  | driveRnd (b : Byte) : Leaves s (.driveRnd b) (s.driveRnd b)

/-- A key transaction that has a transition names one of the 16 keys. -/
theorem keyTransaction_next {s t : State} {o : Output} {id : Nat} {down : Bool}
    (h : keyTransaction s id down = .next (t, o)) : ∃ k : Fin 16, id = k.val ∧ t = s.setKey k down := by
  unfold keyTransaction at h
  split at h
  · cases h
    exact ⟨_, rfl, rfl⟩
  · cases h

/-- The inversion of `transact` that the proofs below cite. -/
theorem leaves_of_transact {a : Transaction} {s t : State} {o : Output} (h : transact a s = .next (t, o)) :
    Leaves s a t := by
  cases a with
  | reset =>
    cases h
    exact .reset
  | load bytes =>
    simp only [transact, State.loadImage] at h
    split at h
    · cases h
      exact .overflows bytes
    · cases h
      exact .loads bytes
  | step =>
    simp only [transact] at h
    split at h
    · cases h
      exact .steps ‹_›
    · cases h
    · cases h
  | keyDown id =>
    obtain ⟨k, rfl, rfl⟩ := keyTransaction_next h
    exact .keyDown k
  | keyUp id =>
    obtain ⟨k, rfl, rfl⟩ := keyTransaction_next h
    exact .keyUp k
  | displayDirty =>
    cases h
    exact .displayDirty
  | readDisplay =>
    cases h
    exact .readDisplay
  | driveRnd b =>
    cases h
    exact .driveRnd b

/-- What every transaction of a run keeps, the run keeps (spec/60_exceptions.md R158). -/
theorem State.after_keeps {P : State → Prop} {run : List Transaction} {s t : State}
    (keeps : ∀ a ∈ run, ∀ u v o, P u → transact a u = .next (v, o) → P v) (hs : P s) (ht : s.after run = some t) :
    P t := by
  induction run generalizing s with
  | nil => cases ht; exact hs
  | cons a run ih =>
    simp only [State.after] at ht
    split at ht
    · exact ih (fun b hb => keeps b (List.mem_cons_of_mem a hb)) (keeps a List.mem_cons_self _ _ _ hs ‹_›) ht
    · cases ht

theorem State.Inv.storeBytes {s : State} (h : s.Inv) (a : Nat) (bs : List Byte) : (s.storeBytes a bs).Inv where
  memory := by simpa using s.storeBytes_wf h.memory a bs
  pcBound := by simpa using h.pcBound
  stackBound := by simpa using h.stackBound
  waitingPc := by simpa using h.waitingPc
  faultRecord := by simpa using h.faultRecord
  quiet := by simpa using h.quiet

theorem State.Inv.transact {a : Transaction} {s t : State} {o : Output} (h : s.Inv)
    (ha : transact a s = .next (t, o)) : t.Inv ∧ t.cfg = s.cfg := by
  cases leaves_of_transact ha with
  | reset => exact ⟨{ State.resetWith_inv s.cfg with }, rfl⟩
  | loads bytes => exact ⟨h.storeBytes programBase bytes, by simp⟩
  | overflows _ => exact ⟨h, rfl⟩
  | steps hs => exact ⟨h.step hs, step_cfg hs⟩
  | keyDown _ => exact ⟨{ h with }, rfl⟩
  | keyUp _ => exact ⟨{ h with }, rfl⟩
  | displayDirty => exact ⟨h, rfl⟩
  | readDisplay => exact ⟨{ h with }, rfl⟩
  | driveRnd _ => exact ⟨{ h with }, rfl⟩

/-- `t` is halted by the fault that halted `s`, with the registers and timers it halted with. -/
def HaltedAs (s t : State) : Prop :=
  t.mode = .faulted ∧ t.fault = s.fault ∧ t.pc = s.pc ∧ SameRegsBut [] s t ∧ SameTimers s t

theorem HaltedAs.refl {s : State} (hmode : s.mode = .faulted) : HaltedAs s s :=
  ⟨hmode, rfl, rfl, fun _ _ => rfl, rfl, rfl⟩

theorem HaltedAs.trans {s u t : State} (h : HaltedAs s u) (h' : HaltedAs u t) : HaltedAs s t := by
  obtain ⟨-, hfault, hpc, hregs, hdelay, hsound⟩ := h
  obtain ⟨hmode', hfault', hpc', hregs', hdelay', hsound'⟩ := h'
  exact ⟨hmode', hfault'.trans hfault, hpc'.trans hpc, fun r hr => (hregs' r hr).trans (hregs r hr),
    hdelay'.trans hdelay, hsound'.trans hsound⟩

/-- A transaction other than reset leaves a halted machine halted (spec/60_exceptions.md R145). -/
theorem transact_haltedAs {a : Transaction} {s t : State} {o : Output} (hmode : s.mode = .faulted) (hr : a ≠ .reset)
    (ha : transact a s = .next (t, o)) : HaltedAs s t := by
  cases leaves_of_transact ha with
  | reset => exact absurd rfl hr
  | loads bytes => simp [HaltedAs, SameRegsBut, SameTimers, hmode]
  | steps hs =>
    simp only [step, hmode] at hs
    cases hs
    exact HaltedAs.refl hmode
  | overflows _ | keyDown _ | keyUp _ | displayDirty | readDisplay | driveRnd _ => exact HaltedAs.refl hmode

/-! ## The statements -/

/-- Settles O54: each way a step can go keeps the invariant. -/
theorem stepKeepsTheInvariant : Obligations.StepKeepsTheInvariant := fun _ _ h hs => h.step hs

/-- Settles O55, by induction on the run. -/
theorem runsKeepTheInvariant : Obligations.RunsKeepTheInvariant := by
  intro s t run h ht
  refine State.after_keeps (P := fun u => u.Inv ∧ u.cfg = s.cfg) ?_ ⟨h, rfl⟩ ht
  intro a _ u v o ⟨hu, hcfg⟩ ha
  obtain ⟨hv, hcfg'⟩ := hu.transact ha
  exact ⟨hv, hcfg'.trans hcfg⟩

/-- Settles O30: Cxnn by its own meaning, every other instruction by its writes. -/
theorem onlyRndConsumesTheRandomByte : Obligations.OnlyRndConsumesTheRandomByte := by
  intro i s t h
  by_cases hi : ∃ x nn, i = .rnd x nn
  · obtain ⟨x, nn, rfl⟩ := hi
    cases h
    exact .inl ⟨x, nn, rfl, rfl, rfl⟩
  · have hi' : ∀ x nn, i ≠ .rnd x nn := fun x nn e => hi ⟨x, nn, e⟩
    exact .inr ⟨hi', (ends_of_exec h).sameRandom hi'⟩

/-- Settles O50. -/
theorem registersChangeOnlyAsTheTableSays : Obligations.RegistersChangeOnlyAsTheTableSays :=
  fun _ _ _ h => (ends_of_exec h).sameRegsBut

/-- Settles O51: a completed instruction by its writes; a fault and the key wait touch none of the parts. -/
theorem partsChangeOnlyByTheirInstructions : Obligations.PartsChangeOnlyByTheirInstructions := by
  intro i s t h
  cases ends_of_exec h with
  | completes hw _ => exact ⟨hw.index, hw.stack, hw.sameMemory, hw.display, hw.dirty, hw.inputs⟩
  | faults _ _ => exact ⟨fun _ => rfl, fun _ => ⟨rfl, rfl⟩, fun _ _ => rfl, fun _ => ⟨rfl, rfl⟩, id, rfl, rfl⟩
  | waits _ => exact ⟨fun _ => rfl, fun _ => ⟨rfl, rfl⟩, fun _ _ => rfl, fun _ => ⟨rfl, rfl⟩, id, rfl, rfl⟩

/-- Settles O56, by induction on the run. -/
theorem onlyResetLeavesFaulted : Obligations.OnlyResetLeavesFaulted := by
  intro s t run hmode hrun ht
  refine State.after_keeps (P := HaltedAs s) ?_ (.refl hmode) ht
  intro a ha u v o hu hv
  have hne : a ≠ .reset := fun e => hrun (e ▸ ha)
  exact hu.trans (transact_haltedAs hu.1 hne hv)

/-- Settles O53. -/
theorem resetSatisfiesTheInvariant : Obligations.ResetSatisfiesTheInvariant := State.resetWith_inv

end Sys2Proof.Machine
end

section
/-! SUPPORT. The proof of the statement about memory (spec/20_memory.md R59): what an allowed Fx55 answers, what the store
of a register block puts at each address, and the step on a fetched word that decodes. -/

namespace Sys2Proof.Machine

/-- A RUNNING step whose fetch finds an instruction's word is that instruction's execution (R78, R80). -/
theorem step_of_decodes {s : State} {op : Word} {i : Instr} (hmode : s.mode = .running) (hfetch : s.fetchWord = .ok op)
    (hdec : decodeWord op = .ok i) : step s = exec i s := by
  simp only [step, hmode, hfetch, hdec]

/-- Fx55 where the write is allowed (R114). -/
theorem exec_ldMemVx_of_allowed {x : Reg} {s : State} (hfit : s.i.toNat + x.toNat ≤ 0xFFF) (hlow : LowWriteAllowed s) :
    exec (.ldMemVx x) s = .next (s.storeBytes s.i.toNat (s.regBlock x)).advance := by
  have hw : s.writeFault (blockLen x) = none :=
    (State.writeFault_eq_none_iff (Nat.succ_ne_zero _)).2 ⟨by simp only [memSize]; omega, hlow⟩
  simp only [exec, execLdMemVx, hw, State.base]

/-- The store of V0..Vx at `a` puts Vq at `a + q` (R114). -/
theorem State.byteAt_storeBytes_regBlock {a : Nat} {x q : Reg} (s : State) (hfit : a + x.toNat ≤ 0xFFF)
    (hq : q.toNat ≤ x.toNat) : (s.storeBytes a (s.regBlock x)).byteAt (a + q.toNat) = s.reg q := by
  have hlen := s.length_regBlock x
  rw [State.byteAt_storeBytes_inside _ _ _ (by simp only [hlen, memSize]; omega) (by omega), State.getElem_regBlock]

/-- Settles O38: after the store PC is I, where the fetch finds V0 and V1. -/
theorem storeOverNextWordIsFetched : Obligations.StoreOverNextWordIsFetched := by
  intro x s hmode hI hx hfit hlow
  refine ⟨_, exec_ldMemVx_of_allowed hfit hlow, fun i hdec => ?_⟩
  let t := (s.storeBytes s.i.toNat (s.regBlock x)).advance
  have hpc : t.pc.toNat = s.i.toNat := by
    have h2 : (2 : Word).toNat = 2 := rfl
    simp only [t, State.advance_pc, State.storeBytes_pc, BitVec.toNat_add, h2]
    omega
  have h0 : t.byteAt s.i.toNat = s.reg 0x0 := s.byteAt_storeBytes_regBlock (q := 0x0) hfit (Nat.zero_le _)
  have h1 : t.byteAt (s.i.toNat + 1) = s.reg 0x1 := s.byteAt_storeBytes_regBlock (q := 0x1) hfit hx
  have hfetch : t.fetchWord = .ok (s.reg 0x0 ++ s.reg 0x1) := by
    rw [State.fetchWord_of_fits (by omega), hpc, h0, h1]
  exact step_of_decodes (by simpa [t] using hmode) hfetch hdec

end Sys2Proof.Machine
end

section
/-! SUPPORT. The proofs of the statements about encoding (spec/30_encoding.md R61 to R74). `Answers` says what makes a decoder's
answer to a word right: an accepted word is its instruction's word, and the refused ones are the spaces of R69. Each family's
decoder and then the whole decoder has one lemma `…_answers`, which follows its tests in their order; the statements about
all words read it off. -/

namespace Sys2Proof

/-! ## A word is rebuilt from its fields -/

theorem wordAddr_fields {op : Word} {top : Nibble} (htop : fieldTop op = top) : wordAddr top (fieldNNN op) = op := by
  subst htop
  refine BitVec.eq_of_getLsbD_eq fun k hk => ?_
  simp only [wordAddr, fieldTop, fieldNNN, BitVec.getLsbD_append, BitVec.getLsbD_extractLsb']
  interval_cases k <;> rfl

theorem wordXNN_fields {op : Word} {top : Nibble} {nn : Byte} (htop : fieldTop op = top) (hnn : fieldNN op = nn) :
    wordXNN top (fieldX op) nn = op := by
  subst htop hnn
  refine BitVec.eq_of_getLsbD_eq fun k hk => ?_
  simp only [wordXNN, fieldTop, fieldX, fieldNN, BitVec.getLsbD_append, BitVec.getLsbD_extractLsb']
  interval_cases k <;> rfl

theorem wordXYN_fields {op : Word} {top n : Nibble} (htop : fieldTop op = top) (hn : fieldN op = n) :
    wordXYN top (fieldX op) (fieldY op) n = op := by
  subst htop hn
  refine BitVec.eq_of_getLsbD_eq fun k hk => ?_
  simp only [wordXYN, fieldTop, fieldX, fieldY, fieldN, BitVec.getLsbD_append, BitVec.getLsbD_extractLsb']
  interval_cases k <;> rfl

/-! ## The fields a refusal depends on, as numbers -/

theorem fieldTop_toNat (op : Word) : (fieldTop op).toNat = op.toNat / 0x1000 := by
  have := op.isLt
  simp only [fieldTop, BitVec.extractLsb'_toNat, Nat.shiftRight_eq_div_pow]
  omega

theorem fieldN_toNat (op : Word) : (fieldN op).toNat = op.toNat % 16 := by
  simp only [fieldN, BitVec.extractLsb'_toNat, Nat.shiftRight_zero, Nat.reducePow]

theorem fieldNN_toNat (op : Word) : (fieldNN op).toNat = op.toNat % 256 := by
  simp only [fieldNN, BitVec.extractLsb'_toNat, Nat.shiftRight_zero, Nat.reducePow]

/-! ## What the decoder answers -/

/-- An answer to a word is right: the instruction of an accepted word has that word, and the word is refused exactly where
`unknown` holds. -/
inductive Answers (op : Word) (unknown : Prop) : Except DecodeError Instr → Prop
  | accepts {i : Instr} (hi : encode i = op) (hknown : ¬ unknown) : Answers op unknown (.ok i)
  | refuses (e : DecodeError) (hunknown : unknown) : Answers op unknown (.error e)

namespace Answers

variable {op : Word} {unknown : Prop} {answer : Except DecodeError Instr}

theorem encode_eq {i : Instr} (h : Answers op unknown (.ok i)) : encode i = op := by
  cases h with
  | accepts hi _ => exact hi

theorem refused_iff (h : Answers op unknown answer) : (∃ e, answer = .error e) ↔ unknown := by
  cases h with
  | accepts _ hknown => simp [hknown]
  | refuses e hunknown => simp [hunknown]

theorem congr {unknown' : Prop} (h : Answers op unknown answer) (hiff : unknown' ↔ unknown) :
    Answers op unknown' answer := by
  rwa [propext hiff]

/-- One test of a decoder: right when both branches are. -/
theorem test {c : Prop} [Decidable c] {yes no : Except DecodeError Instr} (hyes : c → Answers op unknown yes)
    (hno : ¬ c → Answers op unknown no) : Answers op unknown (if c then yes else no) :=
  iteInduction hyes hno

end Answers

/-! ### The families with a decoder of their own (R67, R68) -/

/-- The low digits of family 8 that name no operation (R69). -/
def unusedAluDigits : List Nibble := [0x8, 0x9, 0xA, 0xB, 0xC, 0xD, 0xF]

/-- The low bytes of family E that name a key skip (R65). -/
def keySkipBytes : List Byte := [0x9E, 0xA1]

/-- The low bytes of family F that name an operation (R65). -/
def miscBytes : List Byte := [0x07, 0x0A, 0x15, 0x18, 0x1E, 0x29, 0x33, 0x55, 0x65]

theorem decodeSystem_answers (op : Word) : Answers op (op ≠ 0x00E0#16 ∧ op ≠ 0x00EE#16) (decodeSystem op) := by
  unfold decodeSystem
  refine .test (fun h => .accepts h.symm fun hu => hu.1 h) fun hcls => ?_
  exact .test (fun h => .accepts h.symm fun hu => hu.2 h) fun hret => .refuses _ ⟨hcls, hret⟩

theorem decodeRegSkip_answers {op : Word} {i : Instr} (hi : fieldN op = 0x0 → encode i = op) :
    Answers op (fieldN op ≠ 0x0) (decodeRegSkip op i) :=
  .test (fun h => .accepts (hi h) fun hu => hu h) fun h => .refuses _ h

theorem decodeAlu_answers {op : Word} (htop : fieldTop op = 0x8) :
    Answers op (fieldN op ∈ unusedAluDigits) (decodeAlu op) := by
  have operation : ∀ {n : Nibble} {i : Instr}, wordXYN 0x8 (fieldX op) (fieldY op) n = encode i → n ∉ unusedAluDigits →
      fieldN op = n → Answers op (fieldN op ∈ unusedAluDigits) (.ok i) :=
    fun hi hused hn => .accepts (hi ▸ wordXYN_fields htop hn) (hn ▸ hused)
  unfold decodeAlu
  refine .test (operation rfl (by decide)) fun h0 => ?_
  refine .test (operation rfl (by decide)) fun h1 => ?_
  refine .test (operation rfl (by decide)) fun h2 => ?_
  refine .test (operation rfl (by decide)) fun h3 => ?_
  refine .test (operation rfl (by decide)) fun h4 => ?_
  refine .test (operation rfl (by decide)) fun h5 => ?_
  refine .test (operation rfl (by decide)) fun h6 => ?_
  refine .test (operation rfl (by decide)) fun h7 => ?_
  refine .test (operation rfl (by decide)) fun hE => .refuses _ ?_
  simp only [unusedAluDigits, List.mem_cons, List.not_mem_nil, or_false]
  bv_omega

theorem decodeKeySkip_answers {op : Word} (htop : fieldTop op = 0xE) :
    Answers op (fieldNN op ∉ keySkipBytes) (decodeKeySkip op) := by
  have operation : ∀ {nn : Byte} {i : Instr}, wordXNN 0xE (fieldX op) nn = encode i → nn ∈ keySkipBytes →
      fieldNN op = nn → Answers op (fieldNN op ∉ keySkipBytes) (.ok i) :=
    fun hi hused hnn => .accepts (hi ▸ wordXNN_fields htop hnn) (not_not.2 (hnn ▸ hused))
  unfold decodeKeySkip
  refine .test (operation rfl (by decide)) fun h9E => ?_
  refine .test (operation rfl (by decide)) fun hA1 => .refuses _ ?_
  simp [keySkipBytes, h9E, hA1]

theorem decodeMisc_answers {op : Word} (htop : fieldTop op = 0xF) :
    Answers op (fieldNN op ∉ miscBytes) (decodeMisc op) := by
  have operation : ∀ {nn : Byte} {i : Instr}, wordXNN 0xF (fieldX op) nn = encode i → nn ∈ miscBytes →
      fieldNN op = nn → Answers op (fieldNN op ∉ miscBytes) (.ok i) :=
    fun hi hused hnn => .accepts (hi ▸ wordXNN_fields htop hnn) (not_not.2 (hnn ▸ hused))
  unfold decodeMisc
  refine .test (operation rfl (by decide)) fun h07 => ?_
  refine .test (operation rfl (by decide)) fun h0A => ?_
  refine .test (operation rfl (by decide)) fun h15 => ?_
  refine .test (operation rfl (by decide)) fun h18 => ?_
  refine .test (operation rfl (by decide)) fun h1E => ?_
  refine .test (operation rfl (by decide)) fun h29 => ?_
  refine .test (operation rfl (by decide)) fun h33 => ?_
  refine .test (operation rfl (by decide)) fun h55 => ?_
  refine .test (operation rfl (by decide)) fun h65 => .refuses _ ?_
  simp [miscBytes, h07, h0A, h15, h18, h1E, h29, h33, h55, h65]

/-! ### The whole decoder -/

/-- The spaces of R69, by the fields of a word. -/
def UnknownSpace (op : Word) : Prop :=
  (fieldTop op = 0x0 ∧ op ≠ 0x00E0#16 ∧ op ≠ 0x00EE#16) ∨
  (fieldTop op = 0x5 ∧ fieldN op ≠ 0x0) ∨
  (fieldTop op = 0x8 ∧ fieldN op ∈ unusedAluDigits) ∨
  (fieldTop op = 0x9 ∧ fieldN op ≠ 0x0) ∨
  (fieldTop op = 0xE ∧ fieldNN op ∉ keySkipBytes) ∨
  (fieldTop op = 0xF ∧ fieldNN op ∉ miscBytes)

/-- The top digits whose whole family is one instruction (R65). -/
def plainTops : List Nibble := [0x1, 0x2, 0x3, 0x4, 0x6, 0x7, 0xA, 0xB, 0xC, 0xD]

theorem not_unknownSpace_of_plain {op : Word} (h : fieldTop op ∈ plainTops) : ¬ UnknownSpace op := by
  unfold UnknownSpace
  generalize fieldTop op = top at h
  revert top
  simp [plainTops]

/-- The tests on the top digit, in the decoder's order (R66). -/
theorem decodeWord_answers (op : Word) : Answers op (UnknownSpace op) (decodeWord op) := by
  have plain : ∀ {top : Nibble} {i : Instr}, fieldTop op = top → top ∈ plainTops → encode i = op →
      Answers op (UnknownSpace op) (.ok i) :=
    fun htop hplain hi => .accepts hi (not_unknownSpace_of_plain (htop ▸ hplain))
  unfold decodeWord
  refine .test (fun h => (decodeSystem_answers op).congr (by simp [UnknownSpace, h])) fun h0 => ?_
  refine .test (fun h => plain h (by decide) (wordAddr_fields h)) fun h1 => ?_
  refine .test (fun h => plain h (by decide) (wordAddr_fields h)) fun h2 => ?_
  refine .test (fun h => plain h (by decide) (wordXNN_fields h rfl)) fun h3 => ?_
  refine .test (fun h => plain h (by decide) (wordXNN_fields h rfl)) fun h4 => ?_
  refine .test (fun h => (decodeRegSkip_answers (wordXYN_fields h)).congr (by simp [UnknownSpace, h])) fun h5 => ?_
  refine .test (fun h => plain h (by decide) (wordXNN_fields h rfl)) fun h6 => ?_
  refine .test (fun h => plain h (by decide) (wordXNN_fields h rfl)) fun h7 => ?_
  refine .test (fun h => (decodeAlu_answers h).congr (by simp [UnknownSpace, h])) fun h8 => ?_
  refine .test (fun h => (decodeRegSkip_answers (wordXYN_fields h)).congr (by simp [UnknownSpace, h])) fun h9 => ?_
  refine .test (fun h => plain h (by decide) (wordAddr_fields h)) fun hA => ?_
  refine .test (fun h => plain h (by decide) (wordAddr_fields h)) fun hB => ?_
  refine .test (fun h => plain h (by decide) (wordXNN_fields h rfl)) fun hC => ?_
  refine .test (fun h => plain h (by decide) (wordXYN_fields h rfl)) fun hD => ?_
  refine .test (fun h => (decodeKeySkip_answers h).congr (by simp [UnknownSpace, h])) fun hE => ?_
  have hF : fieldTop op = 0xF := by bv_omega
  exact (decodeMisc_answers hF).congr (by simp [UnknownSpace, hF])

/-! ## The statements -/

/-- Settles O1: by the format of the instruction's word (R62), whose fields read back as they were put in. -/
theorem decodeOfEncodeIsTheInstruction : Obligations.DecodeOfEncodeIsTheInstruction := by
  intro i _
  cases i
  case cls | ret => rfl
  case jp nnn | call nnn | ldI nnn | jpV0 nnn => simp [encode, decodeWord]
  case seImm x nn | sneImm x nn | ldImm x nn | addImm x nn | rnd x nn => simp [encode, decodeWord]
  case drw x y n => simp [encode, decodeWord]
  case seReg x y | sneReg x y => simp [encode, decodeWord, decodeRegSkip]
  case skp x | sknp x => simp [encode, decodeWord, decodeKeySkip]
  case ldReg x y | orReg x y | andReg x y | xorReg x y | addReg x y | subReg x y | shr x y | subnReg x y | shl x y =>
    simp [encode, decodeWord, decodeAlu]
  case ldVxDt x | ldVxK x | ldDtVx x | ldStVx x | addI x | ldF x | ldB x | ldMemVx x | ldVxMem x =>
    simp [encode, decodeWord, decodeMisc]

/-- Settles O2: a right answer that is an instruction has the word it was given. -/
theorem encodeOfDecodeIsTheWord : Obligations.EncodeOfDecodeIsTheWord :=
  fun op _ h => (h ▸ decodeWord_answers op).encode_eq

/-- Settles O3: the words refused are those of `UnknownSpace`, written there by fields and here by numbers. -/
theorem unknownWordsAreTheListedSpaces : Obligations.UnknownWordsAreTheListedSpaces := by
  intro op
  have hlt : op.toNat < 0x1000 ↔ op.toNat / 0x1000 = 0 := by omega
  rw [(decodeWord_answers op).refused_iff, hlt, ← fieldTop_toNat, ← fieldN_toNat, ← fieldNN_toNat]
  simp [UnknownSpace, unusedAluDigits, keySkipBytes, miscBytes, ← BitVec.toNat_inj]

/-- Settles O4: the decoder evaluated on the twelve words. -/
theorem writtenOutWordsDecode : Obligations.WrittenOutWordsDecode :=
  ⟨rfl, rfl, rfl, rfl, rfl, rfl, rfl, rfl, rfl, rfl, ⟨_, rfl⟩, ⟨_, rfl⟩⟩

end Sys2Proof
end

section
/-! SUPPORT. The proofs of the statements about the instruction cycle (spec/30_encoding.md R75 to R84): what a step is in each
mode and for each fetched word, how the step that resolves the key wait ends, and on which timers a completed instruction
runs the timer phase. -/

namespace Sys2Proof.Machine

/-! ## The step by the mode and the fetched word -/

section
variable {s : State}

theorem step_of_faulted (hmode : s.mode = .faulted) : step s = .next s.idleStep := by
  simp only [step, hmode]

theorem step_of_awaitingKey (hmode : s.mode = .awaitingKey) : step s = .next s.awaitingStep := by
  simp only [step, hmode]

theorem step_of_fetch_error {a : Nat} (hmode : s.mode = .running) (hfetch : s.fetchWord = .error a) :
    step s = .next (s.takeFault .fetch a) := by
  simp only [step, hmode, hfetch]

theorem step_of_unknown {op : Word} {e : DecodeError} (hmode : s.mode = .running) (hfetch : s.fetchWord = .ok op)
    (hdec : decodeWord op = .error e) : step s = .next (s.unknownStep op) := by
  simp only [step, hmode, hfetch, hdec]

/-- No step stops the machine (R75; spec/60_exceptions.md R138). -/
theorem step_answers (s : State) : ∃ t, step s = .next t := by
  cases hmode : s.mode with
  | faulted => exact ⟨_, step_of_faulted hmode⟩
  | awaitingKey => exact ⟨_, step_of_awaitingKey hmode⟩
  | running =>
    cases hfetch : s.fetchWord with
    | error a => exact ⟨_, step_of_fetch_error hmode hfetch⟩
    | ok op =>
      cases hdec : decodeWord op with
      | error e => exact ⟨_, step_of_unknown hmode hfetch hdec⟩
      | ok i =>
        obtain ⟨t, ht, -⟩ := exec_ends i s
        exact ⟨t, (step_of_decodes hmode hfetch hdec).trans ht⟩

end

/-! ## The key wait -/

/-- The step that resolves the wait completes the pending Fx0A in RUNNING (R77). -/
theorem State.awaitingStep_of_key {s : State} {k : Fin 16} (h : s.lowestKey = some k) :
    s.awaitingStep = { (s.setReg s.waitX (keyByte k)).advance with mode := .running } := by
  simp only [State.awaitingStep, h]

theorem State.awaitingStep_of_noKey {s : State} (h : s.lowestKey = none) : s.awaitingStep = s.idleStep := by
  simp only [State.awaitingStep, h]

/-- It runs the timer phase on the timers as they were (R77, R81). -/
theorem State.awaitingStep_timerPhaseRan {s : State} {k : Fin 16} (h : s.lowestKey = some k) :
    TimerPhaseRan s.delay s.sound s.awaitingStep := by
  rw [State.awaitingStep_of_key h]
  exact (s.setReg s.waitX (keyByte k)).timerPhaseRan

/-! ## How a step from RUNNING ends -/

theorem State.unknownStep_timerPhaseRan (s : State) (op : Word) : TimerPhaseRan s.delay s.sound (s.unknownStep op) :=
  s.timerPhaseRan

/-- Taking OutOfRangeAccess is precise whatever the offending value: the record holds its low 16 bits. -/
theorem State.takeFault_precise (s : State) (kind : FaultKind) (a : Nat) :
    FaultsWith kind (a % 65536) s (s.takeFault kind a) := by
  have hrec : s.takeFault kind a = s.takeFault kind (a % 65536) := by
    have : BitVec.ofNat 16 a = BitVec.ofNat 16 (a % 65536) := BitVec.eq_of_toNat_eq (by simp)
    simp only [State.takeFault, this]
  exact hrec ▸ s.takeFault_faultsWith kind (Nat.mod_lt a (by decide))

/-- An instruction that completes runs the timer phase on the timers with its own write in them (R81, R128, R129). -/
theorem exec_timerPhaseRan {i : Instr} {s t : State} (h : exec i s = .next t) (hrun : t.mode = .running) :
    TimerPhaseRan (phaseDelay s i) (phaseSound s i) t := by
  have completed : ∀ (w : State) (next : Word), w.delay = phaseDelay s i → w.sound = phaseSound s i →
      TimerPhaseRan (phaseDelay s i) (phaseSound s i) (w.complete next) := by
    intro w next hdelay hsound
    rw [← hdelay, ← hsound]
    exact (State.complete_completedOn next rfl rfl rfl rfl rfl).1
  cases i
  case ret | ldB x | ldMemVx x | ldVxMem x =>
    simp only [exec, execRet, execLdB, execLdMemVx, execLdVxMem] at h
    split at h
    · cases h; cases hrun
    · cases h; exact completed _ _ (by simp [phaseDelay]) (by simp [phaseSound])
  case call nnn | skp x | sknp x | ldVxK x =>
    simp only [exec, execCall, execSkp, execSknp, execLdVxK] at h
    split at h
    · cases h; exact completed _ _ rfl rfl
    · cases h; cases hrun
  case drw x y n =>
    simp only [exec, execDrw] at h
    split at h
    · cases h; cases hrun
    · split at h
      · cases h; cases hrun
      · cases h; exact completed _ _ rfl rfl
  all_goals cases h; exact completed _ _ rfl rfl

/-! ## The outcomes of a step (R84) -/

section
variable {s t : State}

theorem step_faulted_outcome (hmode : s.mode = .faulted) (ht : step s = .next t) : NothingHappens s t := by
  cases ht.symm.trans (step_of_faulted hmode)
  exact s.idleStep_nothingHappens

theorem step_awaitingKey_outcome (hmode : s.mode = .awaitingKey) (ht : step s = .next t) :
    NothingHappens s t ∨
      (t.mode = .running ∧ t.pc = s.pc + 2 ∧ TimerPhaseRan s.delay s.sound t ∧ t.unknown = none) := by
  cases ht.symm.trans (step_of_awaitingKey hmode)
  cases hkey : s.lowestKey with
  | none => exact .inl (State.awaitingStep_of_noKey hkey ▸ s.idleStep_nothingHappens)
  | some k =>
    have htimers := State.awaitingStep_timerPhaseRan hkey
    rw [State.awaitingStep_of_key hkey] at htimers ⊢
    exact .inr ⟨rfl, rfl, htimers, rfl⟩

/-- A step from RUNNING stays there, enters the key wait, or takes a fault. -/
theorem step_running_outcome (hmode : s.mode = .running) (ht : step s = .next t) :
    (t.mode = .running ∧ t.fault = s.fault) ∨
    (t.mode = .awaitingKey ∧ t.pc = s.pc ∧ t.fault = s.fault ∧ SameTimers s t ∧ t.tone = false ∧ t.unknown = none) ∨
    (∃ kind addr, FaultsWith kind addr s t) := by
  obtain ⟨hm, -⟩ | ⟨hm, -⟩ | ⟨-, a, -, rfl⟩ | ⟨-, op, e, -, -, rfl⟩ | ⟨-, op, i, -, -, he⟩ := step_cases ht
  · simp [hmode] at hm
  · simp [hmode] at hm
  · exact .inr (.inr ⟨_, _, s.takeFault_precise .fetch a⟩)
  · exact .inl ⟨hmode, rfl⟩
  · cases ends_of_exec he with
    | completes hw _ => exact .inl ⟨hw.mode.trans hmode, hw.fault⟩
    | faults kind a => exact .inr (.inr ⟨_, _, s.takeFault_precise kind a⟩)
    | waits x => exact .inr (.inl ⟨rfl, rfl, rfl, ⟨rfl, rfl⟩, rfl, rfl⟩)

/-- A step that does not end in RUNNING leaves the timers alone and emits no tone (R81). -/
theorem step_timers_of_not_running (ht : step s = .next t) (hrun : t.mode ≠ .running) :
    SameTimers s t ∧ t.tone = false := by
  cases hmode : s.mode with
  | faulted =>
    obtain rfl := step_faulted_outcome hmode ht
    exact ⟨⟨rfl, rfl⟩, rfl⟩
  | awaitingKey =>
    obtain rfl | ⟨hr, -⟩ := step_awaitingKey_outcome hmode ht
    · exact ⟨⟨rfl, rfl⟩, rfl⟩
    · exact absurd hr hrun
  | running =>
    obtain ⟨hr, -⟩ | ⟨-, -, -, htimers, htone, -⟩ | ⟨kind, a, -, -, htone, -, -, -, -, htimers, -⟩ :=
      step_running_outcome hmode ht
    · exact absurd hr hrun
    · exact ⟨htimers, htone⟩
    · exact ⟨htimers, htone⟩

end

/-! ## The statements -/

/-- Settles O9, by the two ways the poll can go: no key, or a lowest one. -/
theorem waitingStepPollsTheKeys : Obligations.WaitingStepPollsTheKeys := by
  intro s hmode
  refine ⟨fun hnone => ⟨_, step_of_awaitingKey hmode, ?_⟩, fun k hk hlow => ⟨_, step_of_awaitingKey hmode, ?_⟩⟩
  · rw [State.awaitingStep_of_noKey (State.lowestKey_eq_none_iff.2 hnone)]
    exact s.idleStep_nothingHappens
  · have hkey : s.lowestKey = some k := State.lowestKey_eq_some_iff.2 ⟨hk, hlow⟩
    have htimers := State.awaitingStep_timerPhaseRan hkey
    rw [State.awaitingStep_of_key hkey] at htimers ⊢
    have hreg : ((s.setReg s.waitX (keyByte k)).reg s.waitX).toNat = k.val := by
      rw [State.reg_setReg_same, keyByte_toNat]
    exact ⟨hreg, s.setReg_keepsAllBut s.waitX (keyByte k), rfl, rfl, htimers, rfl, rfl, rfl, ⟨rfl, rfl⟩, ⟨rfl, rfl⟩⟩

/-- Settles O47, by the outcomes of a step in each mode. -/
theorem everyStepHasAnOutcome : Obligations.EveryStepHasAnOutcome := by
  intro s
  obtain ⟨t, ht⟩ := step_answers s
  refine ⟨t, ht, by simp only [transact, ht], ?_⟩
  cases hmode : s.mode with
  | faulted => exact step_faulted_outcome hmode ht
  | awaitingKey => exact step_awaitingKey_outcome hmode ht
  | running => exact step_running_outcome hmode ht

/-- Settles O48: of the outcomes of a step outside FAULTED only the faults end in FAULTED. -/
theorem faultsArePrecise : Obligations.FaultsArePrecise := by
  intro s t hs ht hfaulted
  cases hmode : s.mode with
  | faulted => exact absurd hmode hs
  | awaitingKey =>
    obtain rfl | ⟨hrun, -⟩ := step_awaitingKey_outcome hmode ht
    · exact absurd hfaulted hs
    · simp [hfaulted] at hrun
  | running =>
    obtain ⟨hrun, -⟩ | ⟨hwait, -⟩ | hfault := step_running_outcome hmode ht
    · simp [hfaulted] at hrun
    · simp [hfaulted] at hwait
    · exact hfault

/-- Settles O52: only an outcome in RUNNING runs the timer phase, on an unknown word's timers or a completed
instruction's. -/
theorem timersCountCompletedSteps : Obligations.TimersCountCompletedSteps := by
  intro s t ht
  refine ⟨step_timers_of_not_running ht, fun hmode hrun => ?_, fun hmode hrun op hop => ⟨fun e hdec => ?_, fun i hdec => ?_⟩⟩
  · obtain rfl | ⟨-, -, htimers, -⟩ := step_awaitingKey_outcome hmode ht
    · simp [hmode] at hrun
    · exact htimers
  · cases ht.symm.trans (step_of_unknown hmode hop hdec)
    exact s.unknownStep_timerPhaseRan op
  · exact exec_timerPhaseRan ((step_of_decodes hmode hop hdec).symm.trans ht) hrun

/-- Settles O5: the fetch reads the two bytes at PC as that word. -/
theorem stepRunsTheDecodedInstruction : Obligations.StepRunsTheDecodedInstruction :=
  fun _ _ hmode hpc hdec => step_of_decodes hmode (State.fetchWord_of_fits hpc) hdec

/-- Settles O6: the step is `unknownStep`, which writes only PC, the report and the timers. -/
theorem unknownWordIsReportedAndSkipped : Obligations.UnknownWordIsReportedAndSkipped := by
  rintro s op e hmode hpc rfl hdec
  exact ⟨_, step_of_unknown hmode (State.fetchWord_of_fits hpc) hdec, rfl, rfl, s.unknownStep_timerPhaseRan _,
    ⟨fun _ _ => rfl, rfl, ⟨rfl, rfl⟩, fun _ => rfl, rfl, rfl⟩, hmode, rfl, rfl, ⟨rfl, rfl⟩, ⟨rfl, rfl⟩⟩

/-- Settles O7: the fetch fails at that address, and the fault it raises is precise. -/
theorem fetchPastMemoryFaults : Obligations.FetchPastMemoryFaults := by
  intro s hmode hpc
  have hfits : (if s.pc.toNat > 0xFFF then s.pc.toNat else s.pc.toNat + 1) < 65536 := by
    have := s.pc.isLt
    split <;> omega
  exact ⟨_, step_of_fetch_error hmode (State.fetchWord_of_not_fits hpc), s.takeFault_faultsWith .fetch hfits⟩

/-- Settles O8: the step is `idleStep`. -/
theorem faultedStepDoesNothing : Obligations.FaultedStepDoesNothing :=
  fun s hmode => ⟨_, step_of_faulted hmode, s.idleStep_nothingHappens⟩

end Sys2Proof.Machine
end

section
/-! SUPPORT. The proofs of the statements about control flow (spec/40_control_flow.md R87 to R94): which word an
instruction is decoded from, what 00EE and 2nnn answer at each depth of the call stack, and the two shapes the other
instructions share, a completion that writes only PC and a skip. -/

namespace Sys2Proof

/-! ## Decoding -/

/-- Every value of every field is legal (R73). -/
theorem Instr.wellFormed_eq_true (i : Instr) : i.wellFormed = true := by
  have both : ∀ {p q : Bool}, p = true → q = true → (p && q) = true :=
    fun hp hq => Bool.and_eq_true_iff.2 ⟨hp, hq⟩
  cases i
  case cls | ret => rfl
  case jp nnn | call nnn | ldI nnn | jpV0 nnn => exact decide_eq_true nnn.isLt
  case seImm x nn | sneImm x nn | ldImm x nn | addImm x nn | rnd x nn =>
    exact both (decide_eq_true x.isLt) (decide_eq_true nn.isLt)
  case drw x y n => exact both (both (decide_eq_true x.isLt) (decide_eq_true y.isLt)) (decide_eq_true n.isLt)
  case skp x | sknp x | ldVxDt x | ldVxK x | ldDtVx x | ldStVx x | addI x | ldF x | ldB x | ldMemVx x | ldVxMem x =>
    exact decide_eq_true x.isLt
  case seReg x y | ldReg x y | orReg x y | andReg x y | xorReg x y | addReg x y | subReg x y | shr x y | subnReg x y
      | shl x y | sneReg x y =>
    exact both (decide_eq_true x.isLt) (decide_eq_true y.isLt)

theorem decodeWord_encode (i : Instr) : decodeWord (encode i) = .ok i :=
  decodeOfEncodeIsTheInstruction i i.wellFormed_eq_true

/-- A register skip with another low nibble than 0 is UNKNOWN (R67). -/
theorem decodeWord_regSkip_refused {top n : Nibble} (x y : Reg) (htop : top = 0x5 ∨ top = 0x9) (hn : n ≠ 0) :
    ∃ e, decodeWord (wordXYN top x y n) = .error e := by
  have hdigit : fieldN (wordXYN top x y n) ≠ 0x0 := by rwa [fieldN_wordXYN]
  refine (decodeWord_answers _).refused_iff.2 ?_
  obtain rfl | rfl := htop
  · exact .inr (.inl ⟨fieldTop_wordXYN _ x y n, hdigit⟩)
  · exact .inr (.inr (.inr (.inl ⟨fieldTop_wordXYN _ x y n, hdigit⟩)))

end Sys2Proof

namespace Sys2Proof.Machine

/-! ## Targets -/

theorem targetOf_toNat (nnn : Addr) : (targetOf nnn).toNat = nnn.toNat :=
  BitVec.toNat_setWidth_of_le (by decide)

/-- The sum of Bnnn is exact: it is below the 16 bits of PC (R94). -/
theorem targetOf_add_toNat (nnn : Addr) (b : Byte) :
    (targetOf nnn + b.setWidth 16).toNat = nnn.toNat + b.toNat := by
  have hn := nnn.isLt
  have hb := b.isLt
  rw [BitVec.toNat_add, targetOf_toNat, BitVec.toNat_setWidth_of_le (by decide)]
  exact Nat.mod_eq_of_lt (by omega)

/-! ## What the instructions answer -/

section
variable {s : State}

theorem exec_ret_of_empty (h : s.sp.val = 0) : exec .ret s = .next (s.takeFault .stackUnderflow 0) := by
  simp only [exec, execRet, h, dite_true]

/-- 00EE with an entry in use pops slot `k`, the last one (R87). -/
theorem exec_ret_of_succ {k : Fin 16} (h : s.sp.val = k.val + 1) :
    exec .ret s = .next (State.complete { s with sp := k.castSucc } (s.stack[k] + 2)) := by
  simp only [exec, execRet, h, Nat.add_one_ne_zero, dite_false, Nat.add_one_sub_one]
  rfl

/-- 2nnn with a slot free pushes its own address into slot `k`, the first free one (R89). -/
theorem exec_call_of_lt (nnn : Addr) {k : Fin 16} (h : s.sp.val = k.val) :
    exec (.call nnn) s =
      .next (State.complete { s with stack := s.stack.set k s.pc, sp := k.succ } (targetOf nnn)) := by
  simp only [exec, execCall, h, k.isLt, dite_true]
  rfl

theorem exec_call_of_full (nnn : Addr) (h : s.sp.val = 16) :
    exec (.call nnn) s = .next (s.takeFault .stackOverflow 16) := by
  simp only [exec, execCall, h, lt_irrefl, dite_false]

/-- An instruction that completes without a write of its own changes PC alone. -/
theorem exec_writes_only_pc {i : Instr} {next : Word} (h : exec i s = .next (s.complete next)) :
    ∃ t, exec i s = .next t ∧ t.pc = next ∧ KeepsAllBut [] s t ∧ Completed s t :=
  ⟨_, h, rfl, State.complete_keepsAllBut next ⟨fun _ _ => rfl, rfl, ⟨rfl, rfl⟩, fun _ => rfl, rfl, rfl⟩,
    State.complete_completed next rfl rfl rfl rfl rfl rfl rfl rfl rfl⟩

/-- A skip changes PC alone, by 4 where its condition holds and by 2 elsewhere (R80). -/
theorem exec_skips {i : Instr} {c : Bool} {d : Word} (h : exec i s = .next (s.skipIf c))
    (hd : (if c then 4 else 2) = d) :
    ∃ t, exec i s = .next t ∧ t.pc = s.pc + d ∧ KeepsAllBut [] s t ∧ Completed s t := by
  have hpc : (if c then s.pc + 4 else s.pc + 2) = s.pc + d := by rw [← hd, apply_ite (s.pc + ·)]
  exact exec_writes_only_pc (h.trans (by rw [State.skipIf, hpc]))

end

/-! ## The statements -/

/-- Settles O10, by the depth of the stack. -/
theorem retPopsOrUnderflows : Obligations.RetPopsOrUnderflows := by
  refine ⟨decodeWord_encode .ret, fun s => ⟨fun hempty => ?_, fun k hk => ?_⟩⟩
  · exact ⟨_, exec_ret_of_empty hempty, s.takeFault_faultsWith .stackUnderflow (by decide)⟩
  · exact ⟨_, exec_ret_of_succ hk, rfl, rfl, rfl, fun _ _ => rfl, rfl, fun _ => rfl, ⟨rfl, rfl⟩,
      State.complete_completed _ rfl rfl rfl rfl rfl rfl rfl rfl rfl⟩

/-- Settles O12, by the depth of the stack. -/
theorem callPushesOrOverflows : Obligations.CallPushesOrOverflows := by
  refine fun nnn s => ⟨decodeWord_encode (.call nnn), fun k hk => ?_, fun hfull => ?_⟩
  · have hpushed : (s.stack.set k s.pc)[k] = s.pc := Vector.getElem_set_self _
    have hothers : ∀ j : Fin 16, j ≠ k → (s.stack.set k s.pc)[j] = s.stack[j] :=
      fun j hj => Vector.getElem_set_ne _ _ fun e => hj (Fin.ext e.symm)
    exact ⟨_, exec_call_of_lt nnn hk, hpushed, hothers, rfl, targetOf_toNat nnn, fun _ _ => rfl, rfl, fun _ => rfl,
      ⟨rfl, rfl⟩, State.complete_completed _ rfl rfl rfl rfl rfl rfl rfl rfl rfl⟩
  · exact ⟨_, exec_call_of_full nnn hfull, s.takeFault_faultsWith .stackOverflow (by decide)⟩

/-- Settles O17: the sum is exact, and the statement about the fetch (O7) gives the fault of the next step. -/
theorem jpV0AddsV0WithoutWrap : Obligations.JpV0AddsV0WithoutWrap := by
  intro nnn s
  obtain ⟨t, ht, hpc, hkeeps, hcompleted⟩ := exec_writes_only_pc (i := .jpV0 nnn) (s := s) rfl
  exact ⟨decodeWord_encode (.jpV0 nnn), t, ht, hpc ▸ targetOf_add_toNat nnn (s.reg 0), hkeeps, hcompleted,
    fetchPastMemoryFaults t⟩

/-- Settles O11: the target is nnn as a number. -/
theorem jpSetsPcToTheAddress : Obligations.JpSetsPcToTheAddress := by
  intro nnn s
  obtain ⟨t, ht, hpc, hkeeps, hcompleted⟩ := exec_writes_only_pc (i := .jp nnn) (s := s) rfl
  exact ⟨decodeWord_encode (.jp nnn), t, ht, hpc ▸ targetOf_toNat nnn, hkeeps, hcompleted⟩

/-- Settles O13: a skip whose condition is the equality of two bytes, here written as numbers. -/
theorem seImmSkipsIfEqual : Obligations.SeImmSkipsIfEqual :=
  fun x nn _ => ⟨decodeWord_encode (.seImm x nn), exec_skips rfl (by simp [BitVec.toNat_inj])⟩

/-- Settles O14: the skip on the opposite condition. -/
theorem sneImmSkipsIfDifferent : Obligations.SneImmSkipsIfDifferent :=
  fun x nn _ => ⟨decodeWord_encode (.sneImm x nn), exec_skips rfl (by simp [BitVec.toNat_inj])⟩

/-- Settles O15: the skip on the equality of two registers; the other low nibbles are refused. -/
theorem seRegSkipsIfEqual : Obligations.SeRegSkipsIfEqual :=
  fun x y _ => ⟨decodeWord_encode (.seReg x y), fun _ hn => decodeWord_regSkip_refused x y (.inl rfl) hn,
    exec_skips rfl (by simp [BitVec.toNat_inj])⟩

/-- Settles O16: the skip on the opposite condition; the other low nibbles are refused. -/
theorem sneRegSkipsIfDifferent : Obligations.SneRegSkipsIfDifferent :=
  fun x y _ => ⟨decodeWord_encode (.sneReg x y), fun _ hn => decodeWord_regSkip_refused x y (.inr rfl) hn,
    exec_skips rfl (by simp [BitVec.toNat_inj])⟩

end Sys2Proof.Machine
end

section
/-! SUPPORT. The proofs of the statements about the register file (spec/41_register_alu.md R98 to R109). Every instruction
here has one of two shapes, a write of one register or a write of VF and then of one register; each shape is proved once,
and the statements add what the value written and the flag are as numbers or bit by bit. -/

namespace Sys2Proof.Machine

/-! ## The result and the flag as numbers (R96) -/

/-- The difference as the integer residue. -/
theorem diffByte_toInt (a b : Byte) : ((diffByte a b).toNat : Int) = (a.toNat - b.toNat : Int) % 256 := by
  have hb := b.isLt
  rw [diffByte_toNat]
  omega

theorem flagByte_carry (a b : Byte) : flagByte (carry a b) = if a.toNat + b.toNat > 255 then 1 else 0 := by
  simp only [flagByte_eq_ite, carry_iff]

/-- A borrow is the negation of the comparison in `noBorrow`. -/
theorem flagByte_noBorrow (a b : Byte) : flagByte (noBorrow a b) = if a.toNat < b.toNat then 0 else 1 := by
  simp only [flagByte_eq_ite, noBorrow_iff, ← Nat.not_lt, ite_not]

/-- The shape of R106 and R108: the bit shifted out, taken as a number by division, is the flag written. -/
theorem flagByte_toNat_of_iff {b : Bool} {n : Nat} (hn : n < 2) (h : b = true ↔ n = 1) : (flagByte b).toNat = n := by
  cases b with
  | true => exact (h.1 rfl).symm
  | false =>
    have hne : n ≠ 1 := fun e => Bool.false_ne_true (h.2 e)
    exact (show n = 0 by omega).symm

theorem flagByte_lowBit_toNat (a : Byte) : (flagByte (lowBit a)).toNat = a.toNat % 2 :=
  flagByte_toNat_of_iff (Nat.mod_lt _ (by decide)) lowBit_iff

theorem flagByte_highBit_toNat (a : Byte) : (flagByte (highBit a)).toNat = a.toNat / 128 := by
  have ha := a.isLt
  exact flagByte_toNat_of_iff (by omega) (highBit_iff.trans (by omega))

/-! ## The random input (R37) -/

theorem State.rndByte_of_driven {s : State} {b : Byte} (h : s.rnd = some b) : s.rndByte = b := by
  rw [State.rndByte, h]

theorem State.rndByte_of_free {s : State} (h : s.rnd = none) : s.rndByte = Config.freeByte s.rndDraws := by
  rw [State.rndByte, h]

/-! ## The two shapes -/

section
variable {i : Instr} {s : State} {x : Reg}

/-- One register is written and PC advances. -/
theorem exec_writes_reg {b : Byte} (h : exec i s = .next (s.setReg x b).advance) :
    ∃ t, exec i s = .next t ∧ t.reg x = b ∧ t.pc = s.pc + 2 ∧ KeepsAllBut [x] s t ∧ Completed s t :=
  ⟨_, h, s.reg_setReg_same x b, rfl, State.complete_keepsAllBut _ (s.setReg_keepsAllBut x b),
    State.complete_completed _ rfl rfl rfl rfl rfl rfl rfl rfl rfl⟩

/-- The first shape for a value that is given bit by bit. -/
theorem exec_writes_bits {b : Byte} {bit : Nat → Bool} (h : exec i s = .next (s.setReg x b).advance)
    (hb : ∀ k, b.getLsbD k = bit k) :
    ∃ t, exec i s = .next t ∧ (∀ k < 8, (t.reg x).getLsbD k = bit k) ∧ t.pc = s.pc + 2 ∧ KeepsAllBut [x] s t ∧
      Completed s t := by
  obtain ⟨t, ht, hres, hrest⟩ := exec_writes_reg h
  exact ⟨t, ht, fun k _ => hres ▸ hb k, hrest⟩

/-- VF and then a register are written and PC advances; where VF is that register, the result stays (R97). -/
theorem exec_writes_flag_then_reg {f : Bool} {r : Byte} (h : exec i s = .next (s.setFlagThenReg f x r).advance) :
    ∃ t, exec i s = .next t ∧ t.reg x = r ∧ (x ≠ 0xF → t.reg 0xF = flagByte f) ∧ t.pc = s.pc + 2 ∧
      KeepsAllBut [x, 0xF] s t ∧ Completed s t :=
  ⟨_, h, s.reg_setFlagThenReg_result f x r, s.reg_setFlagThenReg_flag f r, rfl,
    State.complete_keepsAllBut _ (s.setFlagThenReg_keepsAllBut f x r),
    State.complete_completed _ rfl rfl rfl rfl rfl rfl rfl rfl rfl⟩

/-- The second shape for a sum and its carry (R99, R104). -/
theorem exec_adds {a b : Byte} (h : exec i s = .next (s.setFlagThenReg (carry a b) x (sumByte a b)).advance) :
    ∃ t, exec i s = .next t ∧ (t.reg x).toNat = (a.toNat + b.toNat) % 256 ∧
      (x ≠ 0xF → t.reg 0xF = if a.toNat + b.toNat > 255 then 1 else 0) ∧ t.pc = s.pc + 2 ∧
      KeepsAllBut [x, 0xF] s t ∧ Completed s t := by
  obtain ⟨t, ht, hres, hflag, hrest⟩ := exec_writes_flag_then_reg h
  exact ⟨t, ht, hres ▸ sumByte_toNat a b, fun hx => (hflag hx).trans (flagByte_carry a b), hrest⟩

/-- The second shape for a difference and its absent borrow (R105, R107). -/
theorem exec_subtracts {a b : Byte} (h : exec i s = .next (s.setFlagThenReg (noBorrow a b) x (diffByte a b)).advance) :
    ∃ t, exec i s = .next t ∧ ((t.reg x).toNat : Int) = (a.toNat - b.toNat : Int) % 256 ∧
      (x ≠ 0xF → t.reg 0xF = if a.toNat < b.toNat then 0 else 1) ∧ t.pc = s.pc + 2 ∧
      KeepsAllBut [x, 0xF] s t ∧ Completed s t := by
  obtain ⟨t, ht, hres, hflag, hrest⟩ := exec_writes_flag_then_reg h
  exact ⟨t, ht, hres ▸ diffByte_toInt a b, fun hx => (hflag hx).trans (flagByte_noBorrow a b), hrest⟩

end

/-! ## The statements -/

/-- Settles O19: a sum with the immediate. -/
theorem addImmSetsSumAndCarry : Obligations.AddImmSetsSumAndCarry :=
  fun x nn _ => ⟨decodeWord_encode (.addImm x nn), exec_adds rfl⟩

/-- Settles O24: a sum of the old Vx and Vy. -/
theorem addRegSetsSumAndCarry : Obligations.AddRegSetsSumAndCarry :=
  fun x y _ => ⟨decodeWord_encode (.addReg x y), exec_adds rfl⟩

/-- Settles O25: the difference of the old Vx and Vy. -/
theorem subRegSetsDifferenceAndNotBorrow : Obligations.SubRegSetsDifferenceAndNotBorrow :=
  fun x y _ => ⟨decodeWord_encode (.subReg x y), exec_subtracts rfl⟩

/-- Settles O26: the bit shifted out is the remainder of the division by 2. -/
theorem shrHalvesAndKeepsTheLowBit : Obligations.ShrHalvesAndKeepsTheLowBit := by
  intro x y s
  obtain ⟨t, ht, hres, hflag, hrest⟩ := exec_writes_flag_then_reg (i := .shr x y) (s := s) rfl
  exact ⟨decodeWord_encode (.shr x y), t, ht, hres ▸ shrByte_toNat (s.reg x),
    fun hx => hflag hx ▸ flagByte_lowBit_toNat (s.reg x), hrest⟩

/-- Settles O27: the difference with the operands exchanged. -/
theorem subnRegSetsReverseDifference : Obligations.SubnRegSetsReverseDifference :=
  fun x y _ => ⟨decodeWord_encode (.subnReg x y), exec_subtracts rfl⟩

/-- Settles O28: the bit shifted out is the quotient of the division by 128. -/
theorem shlDoublesAndKeepsTheHighBit : Obligations.ShlDoublesAndKeepsTheHighBit := by
  intro x y s
  obtain ⟨t, ht, hres, hflag, hrest⟩ := exec_writes_flag_then_reg (i := .shl x y) (s := s) rfl
  exact ⟨decodeWord_encode (.shl x y), t, ht, hres ▸ shlByte_toNat (s.reg x),
    fun hx => hflag hx ▸ flagByte_highBit_toNat (s.reg x), hrest⟩

/-- Settles O29: whichever byte stands at the input, Vx is that byte masked; consuming it changes the input alone. -/
theorem rndMasksTheRandomByte : Obligations.RndMasksTheRandomByte := by
  intro x nn s
  have hbit : ∀ k, ((s.consumeRnd.setReg x (s.rndByte &&& nn)).advance.reg x).getLsbD k =
      (s.rndByte.getLsbD k && nn.getLsbD k) := fun k => by simp
  refine ⟨decodeWord_encode (.rnd x nn), ⟨_, rfl, fun b hb k _ => ?_, fun hfree k _ => ?_, rfl, ?_, ?_⟩, fun _ => rfl⟩
  · exact State.rndByte_of_driven hb ▸ hbit k
  · exact State.rndByte_of_free hfree ▸ hbit k
  · exact State.complete_keepsAllBut _ (s.consumeRnd.setReg_keepsAllBut x _)
  · exact State.complete_completedOn _ rfl rfl rfl rfl rfl

/-- Settles O18: Vx takes the immediate. -/
theorem ldImmLoadsTheImmediate : Obligations.LdImmLoadsTheImmediate :=
  fun x nn _ => ⟨decodeWord_encode (.ldImm x nn), exec_writes_reg rfl⟩

/-- Settles O20: Vx takes the old Vy. -/
theorem ldRegCopies : Obligations.LdRegCopies :=
  fun x y _ => ⟨decodeWord_encode (.ldReg x y), exec_writes_reg rfl⟩

/-- Settles O21: the bits of the OR. -/
theorem orRegOrsTheBits : Obligations.OrRegOrsTheBits :=
  fun x y _ => ⟨decodeWord_encode (.orReg x y), exec_writes_bits rfl fun _ => BitVec.getLsbD_or⟩

/-- Settles O22: the bits of the AND. -/
theorem andRegAndsTheBits : Obligations.AndRegAndsTheBits :=
  fun x y _ => ⟨decodeWord_encode (.andReg x y), exec_writes_bits rfl fun _ => BitVec.getLsbD_and⟩

/-- Settles O23: the bits of the XOR. -/
theorem xorRegXorsTheBits : Obligations.XorRegXorsTheBits :=
  fun x y _ => ⟨decodeWord_encode (.xorReg x y), exec_writes_bits rfl fun _ => BitVec.getLsbD_xor⟩

end Sys2Proof.Machine
end

section
/-! SUPPORT. The proofs of the statements about the index register and memory transfer (spec/42_index_memory.md R110 to
R116): what an instruction leaves unchanged that writes only I, that stores a block at I and that loads V0..Vx, when each
transfer happens and which fault it raises elsewhere, and the values written as numbers. -/

namespace Sys2Proof.Machine

/-! ## The values written as numbers -/

theorem flagByte_indexOverflow (a : Addr) (b : Byte) :
    flagByte (indexOverflow a b) = if a.toNat + b.toNat > 0xFFF then 1 else 0 := by
  simp only [flagByte_eq_ite, indexOverflow_iff]

/-- The glyph's address fits the 12 bits of I for every byte (R112). -/
theorem glyphAddr_toNat (b : Byte) : (BitVec.ofNat 12 (b.toNat * 5)).toNat = b.toNat * 5 := by
  have hb := b.isLt
  rw [BitVec.toNat_ofNat, Nat.mod_eq_of_lt (by omega)]

/-- A decimal digit of a byte fits a byte (R113). -/
theorem digitByte_toNat {n : Nat} (h : n < 256) : (BitVec.ofNat 8 n).toNat = n := by
  rw [BitVec.toNat_ofNat, Nat.mod_eq_of_lt h]

/-! ## What completes and what stays -/

section
variable {i : Instr} {s : State}

/-- I alone is written and PC advances. -/
theorem exec_writes_index {a : Addr} (h : exec i s = .next (s.setI a).advance) :
    ∃ t, exec i s = .next t ∧ t.i = a ∧ t.pc = s.pc + 2 ∧ SameRegsBut [] s t ∧ SameStack s t ∧ SameMemory s t ∧
      SameDisplay s t ∧ Completed s t :=
  ⟨_, h, rfl, rfl, fun _ _ => rfl, ⟨rfl, rfl⟩, fun _ => rfl, ⟨rfl, rfl⟩,
    State.complete_completed _ rfl rfl rfl rfl rfl rfl rfl rfl rfl⟩

/-- A block is stored and PC advances: memory outside the block and all else stays. -/
theorem State.storeBytes_advance_frame (s : State) (a : Nat) {bs : List Byte} {n : Nat} (hn : bs.length = n) :
    SameMemoryOutside a n s (s.storeBytes a bs).advance ∧ (s.storeBytes a bs).advance.pc = s.pc + 2 ∧
      SameRegsBut [] s (s.storeBytes a bs).advance ∧ (s.storeBytes a bs).advance.i = s.i ∧
      SameStack s (s.storeBytes a bs).advance ∧ SameDisplay s (s.storeBytes a bs).advance ∧
      Completed s (s.storeBytes a bs).advance := by
  subst hn
  refine ⟨fun _ hk => s.byteAt_storeBytes_outside a bs hk, ?_, fun q _ => s.storeBytes_reg a bs q, s.storeBytes_i a bs,
    ⟨s.storeBytes_sp a bs, s.storeBytes_stack a bs⟩, ⟨s.storeBytes_fb a bs, s.storeBytes_dirty a bs⟩, ?_⟩
  · rw [State.advance_pc, State.storeBytes_pc]
  · exact State.complete_completed _ (s.storeBytes_mode a bs) (s.storeBytes_waitX a bs) (s.storeBytes_fault a bs)
      (s.storeBytes_keys a bs) (s.storeBytes_cfg a bs) (s.storeBytes_delay a bs) (s.storeBytes_sound a bs)
      (s.storeBytes_rnd a bs) (s.storeBytes_rndDraws a bs)

/-- V0..Vx are loaded and PC advances: all but those registers stays. -/
theorem State.loadRegBlock_advance_keepsAllBut (s : State) (x : Reg) :
    KeepsAllBut (writtenRegs (.ldVxMem x)) s (s.loadRegBlock x).advance :=
  have h := Writes.loadRegBlock s x
  State.complete_keepsAllBut _ ⟨h.regs, h.index rfl, h.stack rfl, h.sameMemory rfl, h.display rfl⟩

theorem State.loadRegBlock_advance_completed (s : State) (x : Reg) : Completed s (s.loadRegBlock x).advance :=
  State.complete_completed _ (s.loadRegBlock_mode x) (s.loadRegBlock_waitX x) (s.loadRegBlock_fault x)
    (s.loadRegBlock_keys x) (s.loadRegBlock_cfg x) (s.loadRegBlock_delay x) (s.loadRegBlock_sound x)
    (s.loadRegBlock_rnd x) (s.loadRegBlock_rndDraws x)

/-! ## When a transfer faults -/

/-- An instruction that takes the fault of its write of I..I + last: past the space at 0x1000, else under the policy at
I (R48, R143). -/
theorem exec_refuses_write {last : Nat}
    (h : ∀ a, s.writeFault (last + 1) = some a → exec i s = .next (s.takeFault .memWrite a)) :
    (s.i.toNat + last > 0xFFF → ∃ t, exec i s = .next t ∧ FaultsWith .memWrite 0x1000 s t) ∧
      (s.i.toNat + last ≤ 0xFFF → ¬ LowWriteAllowed s →
        ∃ t, exec i s = .next t ∧ FaultsWith .memWrite s.i.toNat s t) := by
  have hi := s.i.isLt
  refine ⟨fun hout => ?_, fun hfit hlow => ?_⟩
  · have hfault := State.writeFault_outside (s := s) (n := last + 1) (by simp only [memSize]; omega)
    exact ⟨_, h _ hfault, s.takeFault_faultsWith .memWrite (by decide)⟩
  · have hfault := State.writeFault_low (n := last + 1) (by simp only [memSize]; omega) hlow
    exact ⟨_, h _ hfault, s.takeFault_faultsWith .memWrite (by omega)⟩

end

/-! ## What the transfers answer -/

section
variable {x : Reg} {s : State}

theorem exec_ldB_of_writeFault {a : Nat} (h : s.writeFault 3 = some a) :
    exec (.ldB x) s = .next (s.takeFault .memWrite a) := by
  simp only [exec, execLdB, h]

/-- Fx33 where the write is allowed (R113). -/
theorem exec_ldB_of_allowed (hfit : s.i.toNat + 2 ≤ 0xFFF) (hlow : LowWriteAllowed s) :
    exec (.ldB x) s = .next (s.storeBytes s.i.toNat (bcdDigits (s.reg x))).advance := by
  have hw : s.writeFault 3 = none :=
    (State.writeFault_eq_none_iff (by decide)).2 ⟨by simp only [memSize]; omega, hlow⟩
  simp only [exec, execLdB, hw, State.base]

theorem exec_ldMemVx_of_writeFault {a : Nat} (h : s.writeFault (blockLen x) = some a) :
    exec (.ldMemVx x) s = .next (s.takeFault .memWrite a) := by
  simp only [exec, execLdMemVx, h]

/-- Fx65 where the block runs past the space (R115). -/
theorem exec_ldVxMem_of_not_fits (hout : s.i.toNat + x.toNat > 0xFFF) :
    exec (.ldVxMem x) s = .next (s.takeFault .memRead 0x1000) := by
  have hb : blockOutside s.base (blockLen x) = some memSize :=
    blockOutside_of_not_fits s.base_lt.le (by simp only [memSize, State.base, blockLen]; omega)
  simp only [exec, execLdVxMem, hb, memSize]

/-- Fx65 where the block lies in memory (R115). -/
theorem exec_ldVxMem_of_fits (hfit : s.i.toNat + x.toNat ≤ 0xFFF) :
    exec (.ldVxMem x) s = .next (s.loadRegBlock x).advance := by
  have hb : blockOutside s.base (blockLen x) = none :=
    blockOutside_eq_none_iff.2 (.inr (by simp only [memSize, State.base, blockLen]; omega))
  simp only [exec, execLdVxMem, hb]

/-- The three digits as the store at `a` leaves them (R113). -/
theorem State.byteAt_storeBytes_bcdDigits {a : Nat} (s : State) (b : Byte) (hfit : a + 2 ≤ 0xFFF) :
    ((s.storeBytes a (bcdDigits b)).byteAt a).toNat = b.toNat / 100 ∧
      ((s.storeBytes a (bcdDigits b)).byteAt (a + 1)).toNat = b.toNat / 10 % 10 ∧
      ((s.storeBytes a (bcdDigits b)).byteAt (a + 2)).toNat = b.toNat % 10 := by
  have hb := b.isLt
  have hlen : (bcdDigits b).length = 3 := rfl
  have hspace : a + (bcdDigits b).length ≤ memSize := by
    simp only [hlen, memSize]
    omega
  have hstored : ∀ k (hk : k < 3),
      ((s.storeBytes a (bcdDigits b)).byteAt (a + k)).toNat = ((bcdDigits b)[k]'hk).toNat :=
    fun k hk => congrArg BitVec.toNat (s.byteAt_storeBytes_inside a _ hspace hk)
  exact ⟨(hstored 0 (by decide)).trans (digitByte_toNat (by omega)),
    (hstored 1 (by decide)).trans (digitByte_toNat (by omega)),
    (hstored 2 (by decide)).trans (digitByte_toNat (by omega))⟩

end

/-! ## The statements -/

/-- Settles O32: VF and I are computed from the old I and Vx, so x = F adds the old VF. -/
theorem addISetsSumAndOverflow : Obligations.AddISetsSumAndOverflow := by
  intro x s
  let t := ((s.setFlag (indexOverflow s.i (s.reg x))).setI (sumIndex s.i (s.reg x))).advance
  have hflag : t.reg 0xF = if s.i.toNat + (s.reg x).toNat > 0xFFF then 1 else 0 :=
    (State.reg_setFlag_same s _).trans (flagByte_indexOverflow s.i (s.reg x))
  have hregs : SameRegsBut [0xF] s t := fun q hq => State.reg_setFlag_other s _ (List.mem_singleton.not.1 hq)
  exact ⟨decodeWord_encode (.addI x), t, rfl, sumIndex_toNat s.i (s.reg x), hflag, rfl, hregs, ⟨rfl, rfl⟩,
    fun _ => rfl, ⟨rfl, rfl⟩, State.complete_completed _ rfl rfl rfl rfl rfl rfl rfl rfl rfl⟩

/-- Settles O34, by the check of the write at I, I + 1, I + 2. -/
theorem ldBStoresTheDecimalDigits : Obligations.LdBStoresTheDecimalDigits := by
  intro x s
  obtain ⟨hout, hlow⟩ := exec_refuses_write (i := .ldB x) (s := s) (last := 2) fun _ h => exec_ldB_of_writeFault h
  refine ⟨decodeWord_encode (.ldB x), hout, hlow, fun hfit hallowed => ?_⟩
  obtain ⟨h100, h10, h1⟩ := s.byteAt_storeBytes_bcdDigits (s.reg x) hfit
  have hframe := s.storeBytes_advance_frame s.i.toNat (bs := bcdDigits (s.reg x)) (n := 3) rfl
  exact ⟨_, exec_ldB_of_allowed hfit hallowed, h100, h10, h1, hframe⟩

/-- Settles O35, by the check of the write at I..I + x. -/
theorem ldMemVxStoresTheRegisters : Obligations.LdMemVxStoresTheRegisters := by
  intro x s
  obtain ⟨hout, hlow⟩ :=
    exec_refuses_write (i := .ldMemVx x) (s := s) (last := x.toNat) fun _ h => exec_ldMemVx_of_writeFault h
  refine ⟨decodeWord_encode (.ldMemVx x), hout, hlow, fun hfit hallowed => ?_⟩
  exact ⟨_, exec_ldMemVx_of_allowed hfit hallowed, fun _ hq => s.byteAt_storeBytes_regBlock hfit hq,
    s.storeBytes_advance_frame _ (s.length_regBlock x)⟩

/-- Settles O36, by the check of the read at I..I + x. -/
theorem ldVxMemLoadsTheRegisters : Obligations.LdVxMemLoadsTheRegisters := by
  refine fun x s => ⟨decodeWord_encode (.ldVxMem x), fun hout => ?_, fun hfit => ?_⟩
  · exact ⟨_, exec_ldVxMem_of_not_fits hout, s.takeFault_faultsWith .memRead (by decide)⟩
  · have hreg : ∀ q : Reg, (s.loadRegBlock x).advance.reg q =
        if q.toNat ≤ x.toNat then s.byteAt (s.i.toNat + q.toNat) else s.reg q := fun q => by
      rw [State.advance_reg, State.reg_loadRegBlock, State.base]
    have hpc : (s.loadRegBlock x).advance.pc = s.pc + 2 := by rw [State.advance_pc, State.loadRegBlock_pc]
    obtain ⟨-, hindex, hstack, hmem, hdisplay⟩ := s.loadRegBlock_advance_keepsAllBut x
    exact ⟨_, exec_ldVxMem_of_fits hfit, hreg, hpc, hindex, hstack, hmem, hdisplay,
      s.loadRegBlock_advance_completed x⟩

/-- Settles O37: the load reads at I + q the byte that the store of Vq put there. -/
theorem storeThenLoadReproducesTheRegisters : Obligations.StoreThenLoadReproducesTheRegisters := by
  intro x s hfit hallowed
  refine ⟨_, exec_ldMemVx_of_allowed hfit hallowed, fun m hI hbytes => ?_⟩
  refine ⟨_, exec_ldVxMem_of_fits (hI ▸ hfit), fun q hq => ?_⟩
  calc (m.loadRegBlock x).advance.reg q
      = m.byteAt (m.base + q.toNat) := by rw [State.advance_reg, State.reg_loadRegBlock, if_pos hq]
    _ = m.byteAt (s.i.toNat + q.toNat) := by rw [State.base, hI]
    _ = (s.storeBytes s.i.toNat (s.regBlock x)).advance.byteAt (s.i.toNat + q.toNat) := hbytes q hq
    _ = s.reg q := s.byteAt_storeBytes_regBlock hfit hq

/-- Settles O31: I takes the address. -/
theorem ldILoadsTheAddress : Obligations.LdILoadsTheAddress :=
  fun nnn _ => ⟨decodeWord_encode (.ldI nnn), exec_writes_index rfl⟩

/-- Settles O33: the product is below 0x1000 for every byte. -/
theorem ldFPointsAtTheGlyph : Obligations.LdFPointsAtTheGlyph := by
  intro x s
  obtain ⟨t, ht, hindex, hrest⟩ := exec_writes_index (i := .ldF x) (s := s) rfl
  exact ⟨decodeWord_encode (.ldF x), t, ht, hindex ▸ glyphAddr_toNat (s.reg x), hrest⟩

end Sys2Proof.Machine
end

section
/-! SUPPORT. The proofs of the statements about the display (spec/43_display.md R117 to R122): the pixels of a Dxyn's sprite
in the words of Safety.lean, what the instruction answers in each of its three cases, and what a completed draw leaves
unchanged. -/

namespace Sys2Proof.Machine

/-- The pixels of the sprite that Dxyn draws. -/
def State.sprite (s : State) (x y : Reg) (n : Nibble) : List (Nat × Bool) :=
  spritePixels (s.reg x) (s.reg y) (s.bytesAt s.base n.toNat)

section
variable {s : State} {x y : Reg} {n : Nibble} {k : Nat}

/-! ## The sprite's pixels and cells -/

theorem State.mem_sprite {p : Nat × Bool} :
    p ∈ s.sprite x y n ↔ ∃ r c, r < n.toNat ∧ c < 8 ∧ SpriteCellIs s x y r c p.1 ∧
      (s.byteAt (s.i.toNat + r)).getLsbD (7 - c) = p.2 := by
  simp only [State.sprite, mem_spritePixels, State.length_bytesAt, State.getElem_bytesAt]
  constructor
  · rintro ⟨r, c, hr, hc, rfl⟩
    exact ⟨r, c, hr, hc, rfl, rfl⟩
  · rintro ⟨r, c, hr, hc, hcell, hbit⟩
    exact ⟨r, c, hr, hc, Prod.ext hcell hbit.symm⟩

/-- The cells a draw inverts (R118). -/
theorem mem_setCells_sprite : k ∈ setCells (s.sprite x y n) ↔ SpriteSets s x y n k :=
  mem_setCells.trans State.mem_sprite

/-- The cells a draw checks (R121). -/
theorem mem_checkedCells_sprite :
    k ∈ checkedCells s.cfg.drawBoundCheck (s.sprite x y n) ↔ SpriteChecks s x y n k := by
  unfold SpriteChecks
  cases s.cfg.drawBoundCheck with
  | extent =>
    simp only [checkedCells, List.mem_map, State.mem_sprite]
    constructor
    · rintro ⟨p, ⟨r, c, hr, hc, hcell, -⟩, rfl⟩
      exact ⟨r, c, hr, hc, hcell⟩
    · rintro ⟨r, c, hr, hc, hcell⟩
      exact ⟨(k, _), ⟨r, c, hr, hc, hcell, rfl⟩, rfl⟩
  | setBits => exact mem_setCells_sprite

theorem SpriteSets.inRectangle (h : SpriteSets s x y n k) :
    ∃ r c, r < n.toNat ∧ c < 8 ∧ SpriteCellIs s x y r c k := by
  obtain ⟨r, c, hr, hc, hcell, -⟩ := h
  exact ⟨r, c, hr, hc, hcell⟩

theorem SpriteChecks.inRectangle (h : SpriteChecks s x y n k) :
    ∃ r c, r < n.toNat ∧ c < 8 ∧ SpriteCellIs s x y r c k := by
  unfold SpriteChecks at h
  split at h
  · exact h
  · exact h.inRectangle

/-- Whatever the parameter, a draw checks every cell it inverts. -/
theorem SpriteSets.checked (h : SpriteSets s x y n k) : SpriteChecks s x y n k := by
  unfold SpriteChecks
  split
  · exact h.inRectangle
  · exact h

/-- A checked cell fits the 16 bits of the fault record. -/
theorem SpriteChecks.lt (h : SpriteChecks s x y n k) : k < 65536 := by
  obtain ⟨r, c, hr, hc, hcell⟩ := h.inRectangle
  have hx := (s.reg x).isLt
  have hy := (s.reg y).isLt
  have hn := n.isLt
  unfold SpriteCellIs at hcell
  omega

/-! ## What Dxyn answers -/

theorem blockOutside_sprite (h : SpriteReadable s n) : blockOutside s.base n.toNat = none :=
  blockOutside_eq_none_iff.2 h

/-- The sprite runs past memory (R118). -/
theorem exec_drw_of_unreadable (h : ¬ SpriteReadable s n) :
    exec (.drw x y n) s = .next (s.takeFault .memRead 0x1000) := by
  have hout : memSize < s.base + n.toNat := Nat.lt_of_not_le fun hfit => h (.inr hfit)
  simp only [exec, execDrw, blockOutside_of_not_fits s.base_lt.le hout, memSize]

/-- Cell `k` is the lowest checked one beyond the display (R118). -/
theorem exec_drw_of_badCell (h : SpriteReadable s n) (hk : SpriteChecks s x y n k) (hbad : k > 2047)
    (hlow : ∀ j, SpriteChecks s x y n j → j > 2047 → k ≤ j) :
    exec (.drw x y n) s = .next (s.takeFault .display k) := by
  have hlowest : lowestBadCell (checkedCells s.cfg.drawBoundCheck (s.sprite x y n)) = some k :=
    lowestBadCell_eq_some_iff.2
      ⟨⟨mem_checkedCells_sprite.2 hk, hbad⟩, fun j hj => hlow j (mem_checkedCells_sprite.1 hj)⟩
  rw [State.sprite] at hlowest
  simp only [exec, execDrw, blockOutside_sprite h, hlowest]

/-- No checked cell is beyond the display (R118). -/
theorem exec_drw_of_inside (h : SpriteReadable s n) (hin : ∀ k, SpriteChecks s x y n k → k ≤ 2047) :
    exec (.drw x y n) s =
      .next ((s.show (toggleCells s.fb (setCells (s.sprite x y n)))).setFlag
        (collision s.fb (setCells (s.sprite x y n)))).advance := by
  have hnone : lowestBadCell (checkedCells s.cfg.drawBoundCheck (s.sprite x y n)) = none :=
    lowestBadCell_eq_none_iff.2 fun k hk => Nat.lt_succ_of_le (hin k (mem_checkedCells_sprite.1 hk))
  rw [State.sprite] at hnone ⊢
  simp only [exec, execDrw, blockOutside_sprite h, hnone]

/-! ## What a draw inside the display leaves -/

/-- Exactly the cells that the draw sets are inverted: they are distinct, so none is inverted back. -/
theorem cellAt_toggleCells_sprite (hin : ∀ k, SpriteChecks s x y n k → k ≤ 2047) (k : Nat) :
    (SpriteSets s x y n k → cellAt (toggleCells s.fb (setCells (s.sprite x y n))) k = !cellAt s.fb k) ∧
      (¬ SpriteSets s x y n k → cellAt (toggleCells s.fb (setCells (s.sprite x y n))) k = cellAt s.fb k) := by
  have hcell := cellAt_toggleCells s.fb (cells := setCells (s.sprite x y n)) setCells_nodup
    (fun j hj => Nat.lt_succ_of_le (hin j (mem_setCells_sprite.1 hj).checked)) k
  refine ⟨fun h => ?_, fun h => ?_⟩
  · rw [hcell, decide_eq_true (mem_setCells_sprite.2 h), Bool.xor_true]
  · rw [hcell, decide_eq_false (mt mem_setCells_sprite.1 h), Bool.xor_false]

theorem collision_sprite_iff :
    collision s.fb (setCells (s.sprite x y n)) = true ↔ ∃ k, SpriteSets s x y n k ∧ cellAt s.fb k = true := by
  simp only [collision_iff, mem_setCells_sprite]

end

/-- The framebuffer and VF are written and PC advances: all else stays. -/
theorem State.show_setFlag_advance_frame (s : State) (fb : Framebuffer) (f : Bool) :
    ((s.show fb).setFlag f).advance.dirty = true ∧ ((s.show fb).setFlag f).advance.pc = s.pc + 2 ∧
      SameRegsBut [0xF] s ((s.show fb).setFlag f).advance ∧ ((s.show fb).setFlag f).advance.i = s.i ∧
      SameStack s ((s.show fb).setFlag f).advance ∧ SameMemory s ((s.show fb).setFlag f).advance ∧
      Completed s ((s.show fb).setFlag f).advance :=
  ⟨rfl, rfl, fun _ hq => State.reg_setFlag_other (s.show fb) f (List.mem_singleton.not.1 hq), rfl, ⟨rfl, rfl⟩,
    fun _ => rfl, State.complete_completed _ rfl rfl rfl rfl rfl rfl rfl rfl rfl⟩

/-! ## The statements -/

/-- Settles O40, by the two checks of a draw: its bytes against memory, then its cells against the display. -/
theorem drwDrawsOrFaults : Obligations.DrwDrawsOrFaults := by
  refine fun x y n s => ⟨decodeWord_encode (.drw x y n), fun hout => ?_, fun hread k hk hbad hlow => ?_,
    fun hread hin => ?_⟩
  · exact ⟨_, exec_drw_of_unreadable hout, s.takeFault_faultsWith .memRead (by decide)⟩
  · exact ⟨_, exec_drw_of_badCell hread hk hbad hlow, s.takeFault_faultsWith .display hk.lt⟩
  · have hflag := (s.show (toggleCells s.fb (setCells (s.sprite x y n)))).reg_setFlag_same
      (collision s.fb (setCells (s.sprite x y n)))
    refine ⟨_, exec_drw_of_inside hread hin, fun k _ => cellAt_toggleCells_sprite hin k, fun hhit => ?_,
      fun hmiss => ?_, s.show_setFlag_advance_frame _ _⟩
    · exact hflag.trans (flagByte_eq_one_iff.2 (collision_sprite_iff.2 hhit))
    · have hnone : collision s.fb (setCells (s.sprite x y n)) = false :=
        Bool.eq_false_iff.2 fun h =>
          have ⟨k, hk, hcell⟩ := collision_sprite_iff.1 h
          Bool.false_ne_true ((hmiss k hk).symm.trans hcell)
      exact hflag.trans (congrArg flagByte hnone)

/-- Settles O39: the framebuffer is replaced by the blank one, whatever it was. -/
theorem clsClearsTheDisplay : Obligations.ClsClearsTheDisplay :=
  ⟨decodeWord_encode .cls, fun _ => ⟨_, rfl, fun k _ => cellAt_blankDisplay k, rfl, rfl, fun _ _ => rfl, rfl,
    ⟨rfl, rfl⟩, fun _ => rfl, State.complete_completed _ rfl rfl rfl rfl rfl rfl rfl rfl rfl⟩⟩

end Sys2Proof.Machine
end

section
/-! SUPPORT. The proofs of the statements about the timers and the keypad (spec/44_timers_keypad.md R124 to R129): what
the key skips answer for a register that names a key and for one that does not, what Fx0A answers with and without a key
pressed, and the shape of the two instructions that write a timer. -/

namespace Sys2Proof.Machine

/-! ## What the instructions answer -/

section
variable {s : State} {x : Reg}

/-- Ex9E on a register that names key `k` (R124). -/
theorem exec_skp_of_key {k : Fin 16} (h : (s.reg x).toNat = k.val) : exec (.skp x) s = .next (s.skipIf s.keys[k]) := by
  simp only [exec, execSkp, s.keyFlag_of_lt k h]

theorem exec_skp_of_gt (h : (s.reg x).toNat > 15) :
    exec (.skp x) s = .next (s.takeFault .keyIndex (s.reg x).toNat) := by
  simp only [exec, execSkp, s.keyFlag_of_gt h]

/-- ExA1 on a register that names key `k` (R125). -/
theorem exec_sknp_of_key {k : Fin 16} (h : (s.reg x).toNat = k.val) :
    exec (.sknp x) s = .next (s.skipIf (!s.keys[k])) := by
  simp only [exec, execSknp, s.keyFlag_of_lt k h]

theorem exec_sknp_of_gt (h : (s.reg x).toNat > 15) :
    exec (.sknp x) s = .next (s.takeFault .keyIndex (s.reg x).toNat) := by
  simp only [exec, execSknp, s.keyFlag_of_gt h]

/-- The KEY_INDEX fault records a register's value in full: it fits the 16 bits of the record (R134). -/
theorem State.takeFault_keyIndex_faultsWith (s : State) (b : Byte) :
    FaultsWith .keyIndex b.toNat s (s.takeFault .keyIndex b.toNat) :=
  s.takeFault_faultsWith .keyIndex (b.isLt.trans (by decide))

/-- Fx0A with a key pressed takes the lowest one at once (R127, R133). -/
theorem exec_ldVxK_of_key {k : Fin 16} (h : s.lowestKey = some k) :
    exec (.ldVxK x) s = .next (s.setReg x (keyByte k)).advance := by
  simp only [exec, execLdVxK, h]

theorem exec_ldVxK_of_noKey (h : s.lowestKey = none) : exec (.ldVxK x) s = .next (s.enterWait x) := by
  simp only [exec, execLdVxK, h]

/-- The timers are written, the timer phase runs on what was written, and PC advances. -/
theorem exec_writes_timers {i : Instr} {delay sound : Byte}
    (h : exec i s = .next (State.advance { s with delay := delay, sound := sound })) :
    ∃ t, exec i s = .next t ∧ t.pc = s.pc + 2 ∧ KeepsAllBut [] s t ∧ CompletedOn delay sound s t ∧ SameRandom s t :=
  ⟨_, h, rfl, State.complete_keepsAllBut _ ⟨fun _ _ => rfl, rfl, ⟨rfl, rfl⟩, fun _ => rfl, rfl, rfl⟩,
    State.complete_completedOn _ rfl rfl rfl rfl rfl, rfl, rfl⟩

end

/-! ## The statements -/

/-- Settles O44, by the two ways the poll can go: a lowest key, or none. -/
theorem ldVxKTakesTheLowestKeyOrWaits : Obligations.LdVxKTakesTheLowestKeyOrWaits := by
  refine fun x s => ⟨decodeWord_encode (.ldVxK x), fun k hk hlow => ?_, fun hnone => ?_⟩
  · have hkey : s.lowestKey = some k := State.lowestKey_eq_some_iff.2 ⟨hk, hlow⟩
    obtain ⟨t, ht, hreg, hframe⟩ := exec_writes_reg (exec_ldVxK_of_key (x := x) hkey)
    exact ⟨t, ht, hreg ▸ keyByte_toNat k, hframe⟩
  · exact ⟨_, exec_ldVxK_of_noKey (State.lowestKey_eq_none_iff.2 hnone), rfl, rfl, rfl, rfl, rfl, rfl,
      ⟨fun _ _ => rfl, rfl, ⟨rfl, rfl⟩, fun _ => rfl, rfl, rfl⟩, ⟨rfl, rfl⟩, ⟨rfl, rfl⟩, ⟨rfl, rfl⟩⟩

/-- Settles O41: a register over 15 names no key, and any other names the key whose flag is the skip's condition. -/
theorem skpSkipsIfPressed : Obligations.SkpSkipsIfPressed :=
  fun x s => ⟨decodeWord_encode (.skp x),
    fun hgt => ⟨_, exec_skp_of_gt hgt, s.takeFault_keyIndex_faultsWith (s.reg x)⟩,
    fun _ hk => exec_skips (exec_skp_of_key hk) rfl⟩

/-- Settles O42: the same, with the key's flag negated. -/
theorem sknpSkipsIfNotPressed : Obligations.SknpSkipsIfNotPressed :=
  fun x s => ⟨decodeWord_encode (.sknp x),
    fun hgt => ⟨_, exec_sknp_of_gt hgt, s.takeFault_keyIndex_faultsWith (s.reg x)⟩,
    fun _ hk => exec_skips (exec_sknp_of_key hk) (by simp only [Bool.not_eq_true', ← Bool.not_eq_true, ite_not])⟩

/-- Settles O43: the register is written before the timer phase runs. -/
theorem ldVxDtReadsTheDelayTimer : Obligations.LdVxDtReadsTheDelayTimer :=
  fun x _ => ⟨decodeWord_encode (.ldVxDt x), exec_writes_reg rfl⟩

/-- Settles O45: the timer phase finds Vx in the delay timer. -/
theorem ldDtVxSetsTheDelayTimer : Obligations.LdDtVxSetsTheDelayTimer := by
  intro x s
  obtain ⟨t, ht, hpc, hkeeps, hcompleted, hrandom⟩ := exec_writes_timers (i := .ldDtVx x) (s := s) rfl
  obtain ⟨hdelay, -, -⟩ := hcompleted.1
  exact ⟨decodeWord_encode (.ldDtVx x), t, ht, hdelay, hpc, hkeeps, hcompleted, hrandom⟩

/-- Settles O46: the timer phase finds Vx in the sound timer. -/
theorem ldStVxSetsTheSoundTimer : Obligations.LdStVxSetsTheSoundTimer := by
  intro x s
  obtain ⟨t, ht, hpc, hkeeps, hcompleted, hrandom⟩ := exec_writes_timers (i := .ldStVx x) (s := s) rfl
  obtain ⟨-, hsound, htone⟩ := hcompleted.1
  exact ⟨decodeWord_encode (.ldStVx x), t, ht, hsound, htone, hpc, hkeeps, hcompleted, hrandom⟩

end Sys2Proof.Machine
end

section
/-! SUPPORT. The proofs of the statements about exceptions and the host's transactions (spec/60_exceptions.md R140 to R150):
of which kind a fault is, and what `load`, `read_display` and the key transactions answer. -/

namespace Sys2Proof.Machine

/-! ## The kind of a fault -/

/-- An instruction that halts a RUNNING machine has taken a fault of a kind the table gives it: where it completes or
waits the mode is not FAULTED (R141). -/
theorem exec_takes_listed_fault {i : Instr} {s t : State} (hmode : s.mode = .running) (h : exec i s = .next t)
    (hfaulted : t.mode = .faulted) : ∃ kind ∈ faultKindsOf i, ∃ a, t = s.takeFault kind a := by
  have completed : ∀ {w : State} {next : Word}, w.mode = s.mode → (w.complete next).mode ≠ .faulted := by
    intro w next hw
    simp [hw, hmode]
  cases i
  case ret | ldB x | ldMemVx x | ldVxMem x =>
    simp only [exec, execRet, execLdB, execLdMemVx, execLdVxMem] at h
    split at h
    · cases h; exact ⟨_, List.mem_singleton_self _, _, rfl⟩
    · cases h; exact absurd hfaulted (completed (by simp))
  case call nnn | skp x | sknp x =>
    simp only [exec, execCall, execSkp, execSknp] at h
    split at h
    · cases h; exact absurd hfaulted (completed rfl)
    · cases h; exact ⟨_, List.mem_singleton_self _, _, rfl⟩
  case drw x y n =>
    simp only [exec, execDrw] at h
    split at h
    · cases h; exact ⟨_, List.mem_cons_self, _, rfl⟩
    · split at h
      · cases h; exact ⟨_, List.mem_cons_of_mem _ (List.mem_singleton_self _), _, rfl⟩
      · cases h; exact absurd hfaulted (completed rfl)
  case ldVxK x =>
    simp only [exec, execLdVxK] at h
    split at h
    · cases h; exact absurd hfaulted (completed rfl)
    · cases h; cases hfaulted
  all_goals cases h; exact absurd hfaulted (completed rfl)

/-! ## The host's transactions -/

theorem State.storeByte_only_mem (s : State) (a : Nat) (b : Byte) (m : Memory) :
    { s.storeByte a b with mem := m } = { s with mem := m } := by
  unfold State.storeByte
  split <;> rfl

/-- A store of several bytes changes no part of the state but memory. -/
theorem State.storeBytes_only_mem (s : State) (a : Nat) (bs : List Byte) :
    s.storeBytes a bs = { s with mem := (s.storeBytes a bs).mem } := by
  induction bs generalizing s a with
  | nil => rfl
  | cons b bs ih => exact (ih _ _).trans (s.storeByte_only_mem a b _)

section
variable {s : State} {bytes : List Byte}

theorem transact_load_of_overflows (h : loadMax < bytes.length) :
    transact (.load bytes) s = .next (s, .load .loadOverflow) := by
  simp only [transact, State.loadImage, if_pos h]

theorem transact_load_of_fits (h : bytes.length ≤ loadMax) :
    transact (.load bytes) s = .next (s.storeBytes programBase bytes, .load .ok) := by
  simp only [transact, State.loadImage, if_neg h.not_gt]

end

theorem keyTransaction_of_key (s : State) (k : Fin 16) (down : Bool) :
    keyTransaction s k.val down = .next (s.setKey k down, .nothing) :=
  dif_pos k.isLt

theorem keyTransaction_of_gt (s : State) {id : Nat} (down : Bool) (h : 15 < id) :
    keyTransaction s id down = .refused (.callerContract id) :=
  dif_neg (Nat.not_lt.2 h)

/-- `key_down` and `key_up` are the two values of one transaction (R150). -/
theorem transact_key (s : State) (id : Nat) (down : Bool) :
    transact (if down then .keyDown id else .keyUp id) s = keyTransaction s id down := by
  cases down <;> rfl

theorem State.keys_setKey_same (s : State) (k : Fin 16) (down : Bool) : (s.setKey k down).keys[k] = down :=
  Vector.getElem_set_self _

theorem State.keys_setKey_other (s : State) {k j : Fin 16} (down : Bool) (h : j ≠ k) :
    (s.setKey k down).keys[j] = s.keys[j] :=
  Vector.getElem_set_ne k.isLt j.isLt fun e => h (Fin.ext e.symm)

/-! ## The statements -/

/-- Settles O49: the fault taken is of a kind in the instruction's row, and every fault is precise. -/
theorem onlyTheNamedInstructionsFault : Obligations.OnlyTheNamedInstructionsFault := by
  intro i s t hmode h hfaulted
  obtain ⟨kind, hkind, a, rfl⟩ := exec_takes_listed_fault hmode h hfaulted
  exact ⟨kind, _, hkind, s.takeFault_precise kind a⟩

/-- Settles O58, by the length of the image: one that fits ends inside memory, so the store puts every byte. -/
theorem loadCopiesOrOverflows : Obligations.LoadCopiesOrOverflows := by
  refine fun s bytes => ⟨transact_load_of_overflows, fun hfits => ?_⟩
  have hspace : programBase + bytes.length ≤ memSize := by
    simp only [programBase, memSize]
    omega
  exact ⟨_, transact_load_of_fits hfits, fun _ hk => s.byteAt_storeBytes_inside programBase bytes hspace hk,
    fun _ ha => s.byteAt_storeBytes_outside programBase bytes ha, s.storeBytes_only_mem programBase bytes⟩

/-- Settles O59: neither transaction touches the framebuffer, and only `read_display` writes dirty. -/
theorem readDisplayClearsDirty : Obligations.ReadDisplayClearsDirty :=
  fun s => ⟨s.readDisplay.2, rfl, rfl, rfl, rfl, rfl⟩

/-- Settles O60, by the id: one of the 16 keys, or over 15. -/
theorem keyCallsSetOneFlag : Obligations.KeyCallsSetOneFlag := by
  intro s id down call
  have hcall : transact call s = keyTransaction s id down := transact_key s id down
  refine ⟨?_, fun hgt => hcall.trans (keyTransaction_of_gt s down hgt)⟩
  rintro k rfl
  exact ⟨_, hcall.trans (keyTransaction_of_key s k down), s.keys_setKey_same k down, fun _ hj => s.keys_setKey_other down hj, rfl⟩

end Sys2Proof.Machine
end

section
/-! SUPPORT. The proof of the statement about reset (spec/70_reset_and_hazards.md R159, R161): what each part of the reset
state reads as. -/

namespace Sys2Proof.Machine

/-! ## What the reset state reads as -/

theorem State.resetByHost_reg (s : State) (r : Reg) : s.resetByHost.reg r = 0 :=
  Vector.getElem_replicate r.isLt

theorem State.resetByHost_stack (s : State) (k : Fin 16) : s.resetByHost.stack[k] = 0 :=
  Vector.getElem_replicate k.isLt

theorem State.resetByHost_keys (s : State) (k : Fin 16) : s.resetByHost.keys[k] = false :=
  Vector.getElem_replicate k.isLt

/-- Memory lists nothing after reset, so the low 80 addresses read the font (R41). -/
theorem State.resetByHost_byteAt_font (s : State) (a : Fin 80) : s.resetByHost.byteAt a.val = s.cfg.font[a] :=
  dif_pos a.isLt

/-- The other addresses read 0, those past memory too (R41; log entry 7). -/
theorem State.resetByHost_byteAt_of_ge (s : State) {a : Nat} (h : 80 ≤ a) : s.resetByHost.byteAt a = 0 :=
  dif_neg h.not_gt

/-! ## The statement -/

/-- Settles O57: the state is the one reset builds from the parameters, so the old mode plays no part; its registers,
stack, keypad, memory and framebuffer each read as their lemma says, and every other field is written out in it. -/
theorem resetGivesTheListedValues : Obligations.ResetGivesTheListedValues := fun s =>
  ⟨s.resetByHost, rfl, s.resetByHost_reg, rfl, rfl, rfl, s.resetByHost_stack, s.resetByHost_byteAt_font,
    fun _ => s.resetByHost_byteAt_of_ge, fun k _ => cellAt_blankDisplay k, rfl, rfl, rfl, s.resetByHost_keys, rfl, rfl, rfl,
    rfl, rfl, rfl⟩

end Sys2Proof.Machine
end
